-- ==== Sys2Proof/Word.lean ====
section
/-! DEFINITION. The word types of the machine (spec/00_scope.md R5, R7; spec/30_encoding.md R71).
Every value is an unsigned integer of a stated width (R7), so each is a bit vector of that width;
a register number is an index 0..15 and is never computed with, so it is a `Fin 16`. -/

namespace Sys2Proof

/-- A `u8`: a memory cell, a general register, a timer, the field `NN` (R5 `BYTE_BITS`, `REG_BITS`). -/
abbrev Byte := BitVec 8

/-- A `u16`: an opcode word, the PC, the index register, a stack entry (R5 `PC_BITS`, `I_BITS`). -/
abbrev Word := BitVec 16

/-- The 12-bit address field `NNN` (R71). -/
abbrev Address := BitVec 12

/-- A 4-bit field: the primary opcode, `N`, or a function nibble (R71). -/
abbrev Nibble := BitVec 4

/-- The number of a general register, V0..VF (R20). -/
abbrev Reg := Fin 16

/-- VF, the register that doubles as the flag (R21). -/
abbrev vF : Reg := 15

/-- V0, the register `BNNN` reads by its fixed role (R20). -/
abbrev v0 : Reg := 0

end Sys2Proof
end

