-- ==== Sys2Proof/Config.lean ====
section
/-! DEFINITION. What is fixed for the machine (spec/00_scope.md R5) and its one free value (R6, R34).
The open parameters `CYCLES_PER_TICK`, `FONT` and the quirk bits are part of the start state (R6), not of this file. -/

namespace Sys2Proof

/-- `MEM_SIZE` of R5: bytes of main memory. -/
abbrev Config.memSize : Nat := 4096

/-- `FONT_BYTES` of R5: size of the font data, from address 0. -/
abbrev Config.fontBytes : Nat := 80

/-- `GLYPH_BYTES` of R5. -/
abbrev Config.glyphBytes : Nat := 5

/-- `PROG_BASE` of R5: load address of the image. -/
abbrev Config.progBase : Nat := 0x200

/-- `MAX_IMAGE` of R5: the largest image `load` may be given. -/
abbrev Config.maxImage : Nat := 3584

/-- `FB_W` of R5. -/
abbrev Config.fbW : Nat := 64

/-- `FB_H` of R5. -/
abbrev Config.fbH : Nat := 32

/-- `STACK_DEPTH` of R5. -/
abbrev Config.stackDepth : Nat := 32

/-- The random-byte input `Rnd()` of R34: the n-th draw. A FREE VALUE: it has no body, so nothing in
Lean can evaluate it or prove a value of it (log entry 3; spec decision D24, spec/93 U4). -/
opaque Config.freeByte : Nat → Byte

end Sys2Proof
end

