-- ==== Sys2Proof/Syntax.lean ====
section
/-! DEFINITION. The instruction set: one constructor per row of spec/opcode_table.json, in its order
(spec/30_encoding.md R75). Operand fields carry the types of R71 and R73. -/

namespace Sys2Proof

/-- The 34 instructions. Field names follow R71: `x`, `y` register numbers, `n` a row count,
`nn` a byte immediate, `nnn` an absolute address. -/
inductive Instr where
  /-- `00E0` CLS -/
  | cls
  /-- `00EE` RET -/
  | ret
  /-- `1NNN` JP NNN -/
  | jp (nnn : Address)
  /-- `2NNN` CALL NNN -/
  | call (nnn : Address)
  /-- `3XNN` SE VX, NN -/
  | seImm (x : Reg) (nn : Byte)
  /-- `4XNN` SNE VX, NN -/
  | sneImm (x : Reg) (nn : Byte)
  /-- `5XY0` SE VX, VY -/
  | seReg (x y : Reg)
  /-- `9XY0` SNE VX, VY -/
  | sneReg (x y : Reg)
  /-- `6XNN` LD VX, NN -/
  | ldImm (x : Reg) (nn : Byte)
  /-- `7XNN` ADD VX, NN -/
  | addImm (x : Reg) (nn : Byte)
  /-- `8XY0` LD VX, VY -/
  | ldReg (x y : Reg)
  /-- `8XY1` OR VX, VY -/
  | orReg (x y : Reg)
  /-- `8XY2` AND VX, VY -/
  | andReg (x y : Reg)
  /-- `8XY3` XOR VX, VY -/
  | xorReg (x y : Reg)
  /-- `8XY4` ADD VX, VY -/
  | addReg (x y : Reg)
  /-- `8XY5` SUB VX, VY -/
  | sub (x y : Reg)
  /-- `8XY6` SHR VX, VY -/
  | shr (x y : Reg)
  /-- `8XY7` SUBN VX, VY -/
  | subn (x y : Reg)
  /-- `8XYE` SHL VX, VY -/
  | shl (x y : Reg)
  /-- `ANNN` LD I, NNN -/
  | ldI (nnn : Address)
  /-- `BNNN` JP V0, NNN -/
  | jpV0 (nnn : Address)
  /-- `CXNN` RND VX, NN -/
  | rnd (x : Reg) (nn : Byte)
  /-- `DXYN` DRW VX, VY, N -/
  | drw (x y : Reg) (n : Nibble)
  /-- `EX9E` SKP VX -/
  | skp (x : Reg)
  /-- `EXA1` SKNP VX -/
  | sknp (x : Reg)
  /-- `FX07` LD VX, DT -/
  | ldVxDt (x : Reg)
  /-- `FX15` LD DT, VX -/
  | ldDtVx (x : Reg)
  /-- `FX18` LD ST, VX -/
  | ldStVx (x : Reg)
  /-- `FX0A` LD VX, K -/
  | ldVxK (x : Reg)
  /-- `FX1E` ADD I, VX -/
  | addI (x : Reg)
  /-- `FX29` LD F, VX -/
  | ldF (x : Reg)
  /-- `FX33` LD B, VX -/
  | ldB (x : Reg)
  /-- `FX55` LD [I], VX -/
  | storeRegs (x : Reg)
  /-- `FX65` LD VX, [I] -/
  | loadRegs (x : Reg)
  deriving DecidableEq, Repr

/-- Why bytes are not an instruction, by name. -/
inductive DecodeError where
  /-- The word matches no row of the opcode map (R76); executing it raises `ERR_UNKNOWN_OPCODE` (R191). -/
  | unknownOpcode (w : Word)
  /-- Fewer than two bytes were given; an instruction is two bytes (R70). -/
  | truncated
  deriving DecidableEq, Repr

end Sys2Proof
end

