-- ==== Sys2Proof/WellFormed.lean ====
section
/-! DEFINITION. Which words are instructions: the opcode map of spec/30_encoding.md R75 as mask and match.
The operand types of `Instr` admit exactly the values their fields can hold, and R73 makes every one of
them legal ("all 16 values are legal in every instruction that has the field"), so every term of `Instr`
is well formed and no check on terms is left to state; the check is on words: the fixed digits of a
pattern must all be present (R74, R76). -/

namespace Sys2Proof

/-- One row of the opcode map (R75, R80): a word `w` is this instruction exactly when
`w AND mask = fixed`. `mnemonic` is the row's name in spec/opcode_table.json. -/
structure OpcodeRow where
  mnemonic : String
  mask : Word
  fixed : Word
  deriving DecidableEq, Repr

/-- The word has all the fixed digits of the row's pattern (R75). -/
def OpcodeRow.accepts (r : OpcodeRow) (w : Word) : Bool := w &&& r.mask == r.fixed

/-- The row of the opcode map an instruction belongs to (R75). -/
def Instr.row : Instr → OpcodeRow
  | .cls => ⟨"CLS", 0xFFFF, 0x00E0⟩
  | .ret => ⟨"RET", 0xFFFF, 0x00EE⟩
  | .jp _ => ⟨"JP_NNN", 0xF000, 0x1000⟩
  | .call _ => ⟨"CALL_NNN", 0xF000, 0x2000⟩
  | .seImm _ _ => ⟨"SE_VX__NN", 0xF000, 0x3000⟩
  | .sneImm _ _ => ⟨"SNE_VX__NN", 0xF000, 0x4000⟩
  | .seReg _ _ => ⟨"SE_VX__VY", 0xF00F, 0x5000⟩
  | .sneReg _ _ => ⟨"SNE_VX__VY", 0xF00F, 0x9000⟩
  | .ldImm _ _ => ⟨"LD_VX__NN", 0xF000, 0x6000⟩
  | .addImm _ _ => ⟨"ADD_VX__NN", 0xF000, 0x7000⟩
  | .ldReg _ _ => ⟨"LD_VX__VY", 0xF00F, 0x8000⟩
  | .orReg _ _ => ⟨"OR_VX__VY", 0xF00F, 0x8001⟩
  | .andReg _ _ => ⟨"AND_VX__VY", 0xF00F, 0x8002⟩
  | .xorReg _ _ => ⟨"XOR_VX__VY", 0xF00F, 0x8003⟩
  | .addReg _ _ => ⟨"ADD_VX__VY", 0xF00F, 0x8004⟩
  | .sub _ _ => ⟨"SUB_VX__VY", 0xF00F, 0x8005⟩
  | .shr _ _ => ⟨"SHR_VX__VY", 0xF00F, 0x8006⟩
  | .subn _ _ => ⟨"SUBN_VX__VY", 0xF00F, 0x8007⟩
  | .shl _ _ => ⟨"SHL_VX__VY", 0xF00F, 0x800E⟩
  | .ldI _ => ⟨"LD_I__NNN", 0xF000, 0xA000⟩
  | .jpV0 _ => ⟨"JP_V0__NNN", 0xF000, 0xB000⟩
  | .rnd _ _ => ⟨"RND_VX__NN", 0xF000, 0xC000⟩
  | .drw _ _ _ => ⟨"DRW_VX__VY__N", 0xF000, 0xD000⟩
  | .skp _ => ⟨"SKP_VX", 0xF0FF, 0xE09E⟩
  | .sknp _ => ⟨"SKNP_VX", 0xF0FF, 0xE0A1⟩
  | .ldVxDt _ => ⟨"LD_VX__DT", 0xF0FF, 0xF007⟩
  | .ldDtVx _ => ⟨"LD_DT__VX", 0xF0FF, 0xF015⟩
  | .ldStVx _ => ⟨"LD_ST__VX", 0xF0FF, 0xF018⟩
  | .ldVxK _ => ⟨"LD_VX__K", 0xF0FF, 0xF00A⟩
  | .addI _ => ⟨"ADD_I__VX", 0xF0FF, 0xF01E⟩
  | .ldF _ => ⟨"LD_F__VX", 0xF0FF, 0xF029⟩
  | .ldB _ => ⟨"LD_B__VX", 0xF0FF, 0xF033⟩
  | .storeRegs _ => ⟨"LD__I___VX", 0xF0FF, 0xF055⟩
  | .loadRegs _ => ⟨"LD_VX___I", 0xF0FF, 0xF065⟩

/-- One instruction of each row, in the order of the table. -/
def Instr.samples : List Instr :=
  [.cls, .ret, .jp 0, .call 0, .seImm 0 0, .sneImm 0 0, .seReg 0 0, .sneReg 0 0,
   .ldImm 0 0, .addImm 0 0, .ldReg 0 0, .orReg 0 0, .andReg 0 0, .xorReg 0 0, .addReg 0 0, .sub 0 0,
   .shr 0 0, .subn 0 0, .shl 0 0, .ldI 0, .jpV0 0, .rnd 0 0, .drw 0 0 0, .skp 0,
   .sknp 0, .ldVxDt 0, .ldDtVx 0, .ldStVx 0, .ldVxK 0, .addI 0, .ldF 0, .ldB 0,
   .storeRegs 0, .loadRegs 0]

/-- The opcode map of R75: its 34 rows in order. -/
def opcodeMap : List OpcodeRow := Instr.samples.map Instr.row

/-- A well-formed opcode word: one that matches a row of the opcode map (R76: every other word is illegal). -/
def legalWord (w : Word) : Bool := opcodeMap.any (·.accepts w)

end Sys2Proof
end

