-- ==== Sys2Proof/Decode.lean ====
section
/-! DEFINITION. Fields, dispatch and byte order of an instruction word (spec/30_encoding.md R70 to R76,
spec/20_memory.md R52), the encoder written from the same formats (R72), and the host's table word. -/

namespace Sys2Proof

/-- `op`, bits 15..12: the primary opcode (R71). -/
def fieldOp (w : Word) : Nibble := w.extractLsb' 12 4

/-- `X`, bits 11..8: the first register number (R71). -/
def fieldX (w : Word) : Reg := (w.extractLsb' 8 4).toFin

/-- `Y`, bits 7..4: the second register number (R71). -/
def fieldY (w : Word) : Reg := (w.extractLsb' 4 4).toFin

/-- `N`, bits 3..0: a nibble immediate or function nibble (R71). -/
def fieldN (w : Word) : Nibble := w.extractLsb' 0 4

/-- `NN`, bits 7..0: a byte immediate or function byte (R71). -/
def fieldNN (w : Word) : Byte := w.extractLsb' 0 8

/-- `NNN`, bits 11..0: an address immediate (R71). -/
def fieldNNN (w : Word) : Address := w.extractLsb' 0 12

/-- Family `8`: the function nibble selects the operation (R74). -/
def decodeAlu (w : Word) : Option Instr :=
  match (fieldN w).toNat with
  | 0x0 => some (.ldReg (fieldX w) (fieldY w))
  | 0x1 => some (.orReg (fieldX w) (fieldY w))
  | 0x2 => some (.andReg (fieldX w) (fieldY w))
  | 0x3 => some (.xorReg (fieldX w) (fieldY w))
  | 0x4 => some (.addReg (fieldX w) (fieldY w))
  | 0x5 => some (.sub (fieldX w) (fieldY w))
  | 0x6 => some (.shr (fieldX w) (fieldY w))
  | 0x7 => some (.subn (fieldX w) (fieldY w))
  | 0xE => some (.shl (fieldX w) (fieldY w))
  | _ => none

/-- Family `F`: the function byte selects the operation (R74). -/
def decodeMisc (w : Word) : Option Instr :=
  match (fieldNN w).toNat with
  | 0x07 => some (.ldVxDt (fieldX w))
  | 0x0A => some (.ldVxK (fieldX w))
  | 0x15 => some (.ldDtVx (fieldX w))
  | 0x18 => some (.ldStVx (fieldX w))
  | 0x1E => some (.addI (fieldX w))
  | 0x29 => some (.ldF (fieldX w))
  | 0x33 => some (.ldB (fieldX w))
  | 0x55 => some (.storeRegs (fieldX w))
  | 0x65 => some (.loadRegs (fieldX w))
  | _ => none

/-- The decode function of R74, total on all 65536 words; `none` is `UNKNOWN`. -/
def decode (w : Word) : Option Instr :=
  match (fieldOp w).toNat with
  | 0x0 => if w = 0x00E0 then some .cls else if w = 0x00EE then some .ret else none
  | 0x1 => some (.jp (fieldNNN w))
  | 0x2 => some (.call (fieldNNN w))
  | 0x3 => some (.seImm (fieldX w) (fieldNN w))
  | 0x4 => some (.sneImm (fieldX w) (fieldNN w))
  | 0x5 => if fieldN w = 0 then some (.seReg (fieldX w) (fieldY w)) else none
  | 0x6 => some (.ldImm (fieldX w) (fieldNN w))
  | 0x7 => some (.addImm (fieldX w) (fieldNN w))
  | 0x8 => decodeAlu w
  | 0x9 => if fieldN w = 0 then some (.sneReg (fieldX w) (fieldY w)) else none
  | 0xA => some (.ldI (fieldNNN w))
  | 0xB => some (.jpV0 (fieldNNN w))
  | 0xC => some (.rnd (fieldX w) (fieldNN w))
  | 0xD => some (.drw (fieldX w) (fieldY w) (fieldN w))
  | 0xE => if fieldNN w = 0x9E then some (.skp (fieldX w)) else if fieldNN w = 0xA1 then some (.sknp (fieldX w)) else none
  | 0xF => decodeMisc w
  | _ => none

/-- Two bytes as an opcode word, the byte at the lower address in the high half (R52). -/
def wordOfBytes (hi lo : Byte) : Word := hi ++ lo

/-- The byte stored at the lower address (R52). -/
def highByte (w : Word) : Byte := w.extractLsb' 8 8

/-- The byte stored at the higher address (R52). -/
def lowByte (w : Word) : Byte := w.extractLsb' 0 8

/-- Decoding bytes in address order: the instruction and the bytes after it, or why there is none, by name. -/
def decodeBytes : List Byte → Except DecodeError (Instr × List Byte)
  | hi :: lo :: rest =>
    match decode (wordOfBytes hi lo) with
    | some i => .ok (i, rest)
    | none => .error (.unknownOpcode (wordOfBytes hi lo))
  | _ => .error .truncated

/-- Format `A` of R72: primary opcode and 12-bit address. -/
def formatA (op : Nibble) (nnn : Address) : Word := op ++ nnn

/-- Format `I` of R72: primary opcode, register, byte immediate. -/
def formatI (op : Nibble) (x : Reg) (nn : Byte) : Word := op ++ (BitVec.ofFin x : Nibble) ++ nn

/-- Formats `R` and `D` of R72: primary opcode, two registers, a nibble (function or immediate). -/
def formatR (op : Nibble) (x y : Reg) (n : Nibble) : Word := op ++ (BitVec.ofFin x : Nibble) ++ (BitVec.ofFin y : Nibble) ++ n

/-- Format `S` of R72: primary opcode, register, function byte. It has the layout of format `I`. -/
def formatS (op : Nibble) (x : Reg) (fn : Byte) : Word := formatI op x fn

/-- The opcode word of an instruction (R72, R75). Format `Z` has all 16 bits fixed. -/
def encode : Instr → Word
  | .cls => 0x00E0
  | .ret => 0x00EE
  | .jp nnn => formatA 0x1 nnn
  | .call nnn => formatA 0x2 nnn
  | .seImm x nn => formatI 0x3 x nn
  | .sneImm x nn => formatI 0x4 x nn
  | .seReg x y => formatR 0x5 x y 0x0
  | .sneReg x y => formatR 0x9 x y 0x0
  | .ldImm x nn => formatI 0x6 x nn
  | .addImm x nn => formatI 0x7 x nn
  | .ldReg x y => formatR 0x8 x y 0x0
  | .orReg x y => formatR 0x8 x y 0x1
  | .andReg x y => formatR 0x8 x y 0x2
  | .xorReg x y => formatR 0x8 x y 0x3
  | .addReg x y => formatR 0x8 x y 0x4
  | .sub x y => formatR 0x8 x y 0x5
  | .shr x y => formatR 0x8 x y 0x6
  | .subn x y => formatR 0x8 x y 0x7
  | .shl x y => formatR 0x8 x y 0xE
  | .ldI nnn => formatA 0xA nnn
  | .jpV0 nnn => formatA 0xB nnn
  | .rnd x nn => formatI 0xC x nn
  | .drw x y n => formatR 0xD x y n
  | .skp x => formatS 0xE x 0x9E
  | .sknp x => formatS 0xE x 0xA1
  | .ldVxDt x => formatS 0xF x 0x07
  | .ldDtVx x => formatS 0xF x 0x15
  | .ldStVx x => formatS 0xF x 0x18
  | .ldVxK x => formatS 0xF x 0x0A
  | .addI x => formatS 0xF x 0x1E
  | .ldF x => formatS 0xF x 0x29
  | .ldB x => formatS 0xF x 0x33
  | .storeRegs x => formatS 0xF x 0x55
  | .loadRegs x => formatS 0xF x 0x65

/-- The bytes of an instruction in address order (R52). -/
def encodeBytes (i : Instr) : List Byte := [highByte (encode i), lowByte (encode i)]

/-- The 16-bit opcode word whose bits are `w` in the numbering of spec/opcode_table.json (bit 0 the least
significant bit of the one word); bits at and above `nbits` are 0. -/
def tableWord (nbits w : Nat) : Word := BitVec.ofNat 16 (w % 2 ^ nbits)

/-- The host's table word, laid out big-endian as the hardware stores it (R52) and given to the decoder. -/
def decodeTableWord (nbits w : Nat) : Option Instr :=
  match decodeBytes [highByte (tableWord nbits w), lowByte (tableWord nbits w)] with
  | .ok (i, _) => some i
  | .error _ => none

end Sys2Proof
end

