-- ==== Sys2Proof/Machine/Font.lean ====
section
/-! DEFINITION. The font table and what a memory cell holds right after reset
(spec/00_scope.md R6; spec/70_reset_and_hazards.md R215, R216; spec/10_state.md R31, R37). -/

namespace Sys2Proof.Machine

/-- Glyphs 0 to 7 of R216, five bytes each, row 0 first. -/
def fontLow : List Byte :=
  [0xF0, 0x90, 0x90, 0x90, 0xF0] ++ [0x20, 0x60, 0x20, 0x20, 0x70] ++
  [0xF0, 0x10, 0xF0, 0x80, 0xF0] ++ [0xF0, 0x10, 0xF0, 0x10, 0xF0] ++
  [0x90, 0x90, 0xF0, 0x10, 0x10] ++ [0xF0, 0x80, 0xF0, 0x10, 0xF0] ++
  [0xF0, 0x80, 0xF0, 0x90, 0xF0] ++ [0xF0, 0x10, 0x20, 0x40, 0x40]

/-- Glyphs 8 to F of R216. -/
def fontHigh : List Byte :=
  [0xF0, 0x90, 0xF0, 0x90, 0xF0] ++ [0xF0, 0x90, 0xF0, 0x10, 0xF0] ++
  [0xF0, 0x90, 0xF0, 0x90, 0x90] ++ [0xE0, 0x90, 0xE0, 0x90, 0xE0] ++
  [0xF0, 0x80, 0x80, 0x80, 0xF0] ++ [0xE0, 0x90, 0x90, 0x90, 0xE0] ++
  [0xF0, 0x80, 0xF0, 0x80, 0xF0] ++ [0xF0, 0x80, 0xF0, 0x80, 0x80]

/-- `FONT[0..79]`, the 80 bytes reset writes to addresses 0 to 79: a parameter of the machine, given at
construction and constant from then on (R6, R101, R36). -/
abbrev FontTable := Vector Byte 80

/-- The default value of `FONT`, the table of R216 (PRESUMED: the spec itself marks the bytes as general
knowledge, decision D41; log entry 7). -/
def defaultFont : FontTable := ⟨(fontLow ++ fontHigh).toArray, by decide⟩

/-- What the cell at `a` holds after reset: `FONT[a]` for `a ≤ 79`, 0 elsewhere (R37). It is what an
address that memory does not list reads as (log entry 8). -/
def resetByte (font : FontTable) (a : Nat) : Byte := if h : a < Config.fontBytes then font[a] else 0

end Sys2Proof.Machine
end

