-- ==== Sys2Proof/Machine/State.lean ====
section
/-! DEFINITION. The machine's state as plain data, why a step can stop, and the state after reset
(spec/10_state.md R20 to R37; spec/70_reset_and_hazards.md R215, R217). -/

namespace Sys2Proof.Machine

/-- Why the machine stops with a fault: it never does. The three fatal conditions of R190 are state of
this machine (`MODE`, `ERR`, `ERR_OP`), taken as a next state (R199, log entry 9); no memory access
faults (R195), so the type has no constructor. Raised by nobody; safe. -/
inductive Fault where
  deriving DecidableEq, Repr

/-- Why the model gives no next state. No instruction and no step refuses; the last two are raised by
host operations whose precondition the spec leaves without any behaviour. -/
inductive Refusal where
  /-- Raised by an arm of `exec` for an instruction without a meaning yet; there is none. Safe. -/
  | notModelled (mnemonic : String)
  /-- Raised by `State.load` for more than 3584 bytes (R99, R220, spec/93 U2: "refuse"). Safe. -/
  | imageTooLong (length : Nat)
  /-- Raised by `State.construct` for `CYCLES_PER_TICK` = 0 (R6 "≥ 1", spec/93 U13: "refuse"). Safe. -/
  | zeroCyclesPerTick
  deriving DecidableEq, Repr

/-- `MODE` of R30: a run state, not a privilege level (R201). -/
inductive Mode where
  /-- `step()` executes instructions -/
  | run
  /-- a fatal condition was raised; `step()` is inert until `reset()` (R95) -/
  | fault
  deriving DecidableEq, Repr

/-- The fatal conditions by the names of R190; also the encoding of the `fault` output (R35). -/
inductive ErrCode where
  /-- `ERR_NONE` -/
  | none
  /-- `ERR_UNKNOWN_OPCODE` -/
  | unknownOpcode
  /-- `ERR_STACK_OVERFLOW` -/
  | stackOverflow
  /-- `ERR_STACK_UNDERFLOW` -/
  | stackUnderflow
  deriving DecidableEq, Repr

/-- The main memory as listed cells: addresses strictly rising, none equal to what an unlisted address
reads as (`Memory.wf`). -/
abbrev Memory := List Host.Cell

/-- The framebuffer: 32 rows of 64 pixels, row 0 first (R32). -/
abbrev Framebuffer := Vector (Vector Bool 64) 32

/-- Everything the spec gives the machine (R20 to R35, and the parameters of R6), one field per element. -/
structure State where
  /-- V0..VF (R20); VF is the flag (R21) -/
  v : Vector Byte 16
  /-- the program counter (R22) -/
  pc : Word
  /-- the index register I (R23) -/
  i : Word
  /-- the call stack (R24) -/
  stack : Vector Word 32
  /-- the stack pointer, the number of return addresses held, 0..32 (R25) -/
  sp : Fin 33
  /-- the delay timer (R26) -/
  dt : Byte
  /-- the sound timer (R27) -/
  st : Byte
  /-- quirk "shift-uses-second-operand" (R28) -/
  qShiftY : Bool
  /-- quirk "block-ops-increment-index" (R28) -/
  qIncI : Bool
  /-- `TICK_CTR`, the Timer Driver's counter of completed steps (R29) -/
  tickCtr : Nat
  /-- `CYCLES_PER_TICK`, at least 1, fixed at construction (R6, R101) -/
  cyclesPerTick : PNat
  /-- `FONT`, a parameter like `CYCLES_PER_TICK`: fixed at construction (R6, R101), log entry 7 -/
  font : FontTable
  /-- `MODE` (R30) -/
  mode : Mode
  /-- `ERR` (R30) -/
  err : ErrCode
  /-- `ERR_OP` (R30) -/
  errOp : Word
  /-- main memory (R31) -/
  mem : Memory
  /-- the framebuffer (R32) -/
  fb : Framebuffer
  /-- the key-state vector, true = pressed (R33); no engine operation writes it -/
  keys : Vector Bool 16
  /-- the model's own: how many bytes `Rnd()` has given (log entry 3) -/
  rndCtr : Nat
  /-- the output `redraw` of the latest step (R35, log entry 2) -/
  redraw : Bool
  /-- the output `sound_expiry` of the latest step (R35, log entry 2) -/
  soundExpiry : Bool
  /-- the output `fault` of the latest step (R35, log entry 2) -/
  faultOut : ErrCode
  deriving DecidableEq, Repr

/-- All pixels 0 (R37). -/
def Framebuffer.blank : Framebuffer := Vector.replicate 32 (Vector.replicate 64 false)

/-- The machine right after reset (R37, R217). What the spec leaves open has the values of log entries
3 (`rndCtr`), 4 (`cyclesPerTick`), 5 (the quirk bits), 6 (`keys`) and 7 (`font`). -/
def State.reset : State where
  v := Vector.replicate 16 0
  pc := 0x0200
  i := 0
  stack := Vector.replicate 32 0
  sp := 0
  dt := 0
  st := 0
  qShiftY := false
  qIncI := false
  tickCtr := 0
  cyclesPerTick := 1000
  font := defaultFont
  mode := .run
  err := .none
  errOp := 0
  mem := []
  fb := Framebuffer.blank
  keys := Vector.replicate 16 false
  rndCtr := 0
  redraw := false
  soundExpiry := false
  faultOut := .none

end Sys2Proof.Machine
end

