-- ==== Sys2Proof/Machine/Ops.lean ====
section
/-! DEFINITION. The named operations over registers, memory, stack, framebuffer and keys
(spec/00_scope.md R9), raising a fatal condition (spec/60_exceptions.md R199), and the parts of a step
that are not an instruction's (spec/40_step_cycle.md R91 to R95). -/

namespace Sys2Proof.Machine

/-! ### Main memory (R50 to R54) -/

/-- The byte a memory holds at `a`; an address it does not list reads as after reset (R37), which is why
this and the operations below take the font table. -/
def Memory.read (font : FontTable) : Memory → Nat → Byte
  | [], a => resetByte font a
  | (k, b) :: rest, a => if k = a then b else Memory.read font rest a

/-- Put the cell `(a, b)` before the first cell at a higher address. -/
def Memory.insert : Memory → Nat → Byte → Memory
  | [], a, b => [(a, b)]
  | (k, c) :: rest, a, b => if k < a then (k, c) :: Memory.insert rest a b else (a, b) :: (k, c) :: rest

/-- Store `b` at `a`: whatever is listed for `a` goes, and `b` is listed in its place unless the cell
reads as after reset again. -/
def Memory.write (font : FontTable) (m : Memory) (a : Nat) (b : Byte) : Memory :=
  let others := m.filter fun c => c.1 != a
  if b = resetByte font a then others else Memory.insert others a b

/-- The canonical form: addresses strictly rising and inside the space, no cell as after reset. -/
abbrev Memory.wf (font : FontTable) (m : Memory) : Prop :=
  List.Pairwise (fun c d => c.1 < d.1) m ∧ ∀ c ∈ m, c.1 < Config.memSize ∧ c.2 ≠ resetByte font c.1

/-- Store bytes at consecutive addresses from `a`, ascending, each address wrapped on its own (R51, R54). -/
def Memory.storeBytes (font : FontTable) (m : Memory) (a : Nat) : List Byte → Memory
  | [] => m
  | b :: bs => Memory.storeBytes font (Memory.write font m (a % Config.memSize) b) (a + 1) bs

/-- `MemRead(a, 1)` of R9. -/
def State.memRead (s : State) (a : Nat) : Byte := Memory.read s.font s.mem (a % Config.memSize)

/-- `MemWrite` of R9 at consecutive addresses from `a`. -/
def State.storeBytes (s : State) (a : Nat) (bs : List Byte) : State :=
  { s with mem := Memory.storeBytes s.font s.mem a bs }

/-! ### Registers (R20 to R29) -/

/-- `V[x]` (R9, R20). -/
def State.reg (s : State) (x : Reg) : Byte := s.v[x.val]

/-- `V[x] <- b` (R9, R20): no other register changes. -/
def State.setReg (s : State) (x : Reg) (b : Byte) : State := { s with v := s.v.set x.val b }

/-- `pc <- t`, reduced modulo 2^16 (R9, R22). -/
def State.setPc (s : State) (t : Nat) : State := { s with pc := BitVec.ofNat 16 t }

/-- Advance the PC by `n` bytes from the instruction being executed (R96). -/
def State.advance (s : State) (n : Nat) : State := s.setPc (s.pc.toNat + n)

/-- Skip the next instruction if `c`: `+4` if the condition holds, else `+2` (R12 "Skip", R96). -/
def State.skipIf (s : State) (c : Bool) : State := s.advance (if c then 4 else 2)

/-- `I <- t mod 0x1000`, the one reduction every write of I respects (R23). -/
def State.setI (s : State) (t : Nat) : State := { s with i := BitVec.ofNat 16 (t % 0x1000) }

/-- `DT <- b` (R26). -/
def State.setDt (s : State) (b : Byte) : State := { s with dt := b }

/-- `ST <- b` (R27). -/
def State.setSt (s : State) (b : Byte) : State := { s with st := b }

/-! ### The call stack (R24, R25) -/

/-- Push a return address: `STACK[SP] <- a`, then SP + 1; `none` when SP = 32. -/
def State.push (s : State) (a : Word) : Option State :=
  if h : s.sp.val < Config.stackDepth then
    some { s with stack := s.stack.set s.sp.val a h, sp := ⟨s.sp.val + 1, Nat.succ_lt_succ h⟩ }
  else none

/-- Pop a return address: SP - 1, then `STACK[SP]`; `none` when SP = 0. The entry keeps its value (R24). -/
def State.pop (s : State) : Option (Word × State) :=
  if 0 < s.sp.val then
    have top : s.sp.val - 1 < 32 := by have := s.sp.isLt; omega
    some (s.stack[s.sp.val - 1], { s with sp := ⟨s.sp.val - 1, Nat.lt_succ_of_lt top⟩ })
  else none

/-! ### The framebuffer (R32), the keys (R33), the random byte (R34) -/

/-- `FbRead(x, y)` of R9, coordinates wrapped modulo 64 and 32 (R32). -/
def fbRead (fb : Framebuffer) (x y : Nat) : Bool :=
  (fb[y % 32]'(Nat.mod_lt _ (by decide)))[x % 64]'(Nat.mod_lt _ (by decide))

/-- `FbWrite(x, y, b)` of R9, coordinates wrapped modulo 64 and 32 (R32). -/
def fbWrite (fb : Framebuffer) (x y : Nat) (b : Bool) : Framebuffer :=
  fb.set (y % 32) ((fb[y % 32]'(Nat.mod_lt _ (by decide))).set (x % 64) b (Nat.mod_lt _ (by decide)))
    (Nat.mod_lt _ (by decide))

/-- The engine wrote the framebuffer in this step: `redraw <- 1` (R9, R97). -/
def State.setFb (s : State) (fb : Framebuffer) : State := { s with fb := fb, redraw := true }

/-- `Key(k)` of R9. -/
def State.key (s : State) (k : Reg) : Bool := s.keys[k.val]

/-- `Rnd()` of R9: the byte of this draw, a free value (R34, log entry 3). -/
def State.drawnByte (s : State) : Byte := Config.freeByte s.rndCtr

/-- The state after one draw: the next draw is a fresh one (R34). -/
def State.countDraw (s : State) : State := { s with rndCtr := s.rndCtr + 1 }

/-! ### Fatal conditions (R199) -/

/-- Fault entry of R199, raised by the step that fetched `w` in the state `s` it started from, so every
write of that step is discarded: MODE, ERR, ERR_OP latch; outputs `redraw = 0, sound_expiry = 0, fault = code`. -/
def State.raiseFatal (s : State) (code : ErrCode) (w : Word) : State :=
  { s with mode := .fault, err := code, errOp := w, redraw := false, soundExpiry := false, faultOut := code }

/-! ### The parts of a step (R91) -/

/-- S1 FETCH: `MemRead(PC, 2)`, big-endian (R92). -/
def State.fetchWord (s : State) : Word := wordOfBytes (s.memRead s.pc.toNat) (s.memRead (s.pc.toNat + 1))

/-- The head of `step()`: the outputs of this step start at 0 (R91). -/
def State.beginStep (s : State) : State := { s with redraw := false, soundExpiry := false, faultOut := .none }

/-- S0 GUARD: a step in FAULT mode changes nothing and returns `(0, 0, ERR)` (R95). -/
def State.inertStep (s : State) : State := { s with redraw := false, soundExpiry := false, faultOut := s.err }

/-- An instruction's word at the PC, where the next step fetches (R52, R92). -/
def State.placeWord (s : State) (w : Word) : State := s.storeBytes s.pc.toNat [highByte w, lowByte w]

end Sys2Proof.Machine
end

