-- ==== Sys2Proof/Machine/Flags.lean ====
section
/-! DEFINITION. The ALU with its flags (spec/43_load_alu.md R136 to R142): exact integers first, then the
narrowing to 8 bits. Every operation gives the result byte and whether VF becomes 1 (R142 item 4). -/

namespace Sys2Proof.Machine

/-- A flag value: 1 or 0, never another (R142 item 4). -/
def flagByte (b : Bool) : Byte := if b then 1 else 0

/-- Sum modulo 256; carry iff the true sum is at least 256 (R136). -/
def aluAdd (a b : Byte) : Byte × Bool :=
  (BitVec.ofNat 8 (a.toNat + b.toNat), decide (256 ≤ a.toNat + b.toNat))

/-- Difference modulo 256; no borrow iff minuend ≥ subtrahend (R137). -/
def aluSub (a b : Byte) : Byte × Bool :=
  (BitVec.ofInt 8 ((a.toNat : Int) - b.toNat), decide (b.toNat ≤ a.toNat))

/-- Logical shift right by one; the flag is bit 0 of the source (R139). -/
def aluShr (a : Byte) : Byte × Bool := (BitVec.ofNat 8 (a.toNat / 2), a.getLsbD 0)

/-- Shift left by one, modulo 256; the flag is bit 7 of the source (R141). -/
def aluShl (a : Byte) : Byte × Bool := (BitVec.ofNat 8 (a.toNat * 2), a.getLsbD 7)

/-- Write VF with a flag. -/
def State.setFlag (s : State) (b : Bool) : State := s.setReg vF (flagByte b)

/-- The result to `V[x]` first and the flag to VF second, so with `x` = VF the flag is the final value (R94 item 2). -/
def State.setResultFlag (s : State) (x : Reg) (r : Byte × Bool) : State := (s.setReg x r.1).setFlag r.2

end Sys2Proof.Machine
end

