-- ==== Sys2Proof/Machine/Operands.lean ====
section
/-! DEFINITION. Every operand form (spec/30_encoding.md R73): the selected shift source, the key index,
decimal digits, block transfers at I, and the sprite (spec/45_random_display.md R167, R168). -/

namespace Sys2Proof.Machine

/-- The shift source of `8XY6` and `8XYE`: VY if `Q_SHIFT_Y` = 1, else VX (R138). -/
def State.shiftSource (s : State) (x y : Reg) : Byte := if s.qShiftY then s.reg y else s.reg x

/-- The key a register names: its low four bits (R181). -/
def keyIndex (b : Byte) : Reg := (b.extractLsb' 0 4).toFin

/-- The least pressed key, if any (R177). -/
def State.firstKey (s : State) : Option Nat := s.keys.toList.findIdx? id

/-- The hundreds, tens and ones digits of a byte (R153). -/
def bcdDigits (b : Byte) : List Byte :=
  [BitVec.ofNat 8 (b.toNat / 100), BitVec.ofNat 8 (b.toNat / 10 % 10), BitVec.ofNat 8 (b.toNat % 10)]

/-- V0..VX inclusive, in ascending order (R154). -/
def State.regsUpTo (s : State) (x : Reg) : List Byte := s.v.toList.take (x.val + 1)

/-- The register file with V0..VX read from I.., ascending; the registers above VX keep their values (R155). -/
def State.loadedRegs (s : State) (x : Reg) : Vector Byte 16 :=
  Vector.ofFn fun k : Reg => if k ≤ x then s.memRead (s.i.toNat + k.val) else s.reg k

/-- `V[k] <- MemRead(I + k)` for k = 0..X (R155). -/
def State.loadUpTo (s : State) (x : Reg) : State := { s with v := s.loadedRegs x }

/-- The end of a block transfer: I + X + 1 modulo 0x1000 if `Q_INC_I` = 1, else I stays (R154, R155). -/
def State.bumpI (s : State) (x : Reg) : State := if s.qIncI then s.setI (s.i.toNat + x.val + 1) else s

/-- The N bytes of the sprite at I, each address wrapped, top row first (R167). -/
def State.sprite (s : State) (n : Nibble) : List Byte :=
  (List.range n.toNat).map fun row => s.memRead (s.i.toNat + row)

/-- A framebuffer being drawn on, and whether some pixel went from 1 to 0 so far (R168 `coll`). -/
structure Canvas where
  fb : Framebuffer
  coll : Bool
  deriving DecidableEq, Repr

/-- XOR one set sprite bit into the pixel at `(x, y)`, both wrapped (R168). -/
def flipPixel (c : Canvas) (x y : Nat) : Canvas :=
  ⟨fbWrite c.fb x y (!fbRead c.fb x y), c.coll || fbRead c.fb x y⟩

/-- Draw the columns `col ..` of one row byte: column c is bit 7 - c; a 0 bit touches nothing (R167, R168). -/
def drawColumns (b : Byte) (x y : Nat) (c : Canvas) : List Nat → Canvas
  | [] => c
  | col :: cols =>
    drawColumns b x y (if b.getLsbD (7 - col) then flipPixel c (x + col) y else c) cols

/-- Draw the rows of a sprite downwards from row `y` (R168). -/
def drawRows (x : Nat) : Canvas → Nat → List Byte → Canvas
  | c, _, [] => c
  | c, y, b :: bs => drawRows x (drawColumns b x y c (List.range 8)) (y + 1) bs

end Sys2Proof.Machine
end

