-- ==== Sys2Proof/Machine/Control.lean ====
section
/-! DEFINITION. Control transfer (spec/41_control_flow.md R110 to R113): `00EE`, `1NNN`, `2NNN`, `BNNN`.
The word latched by a fatal condition is the instruction's own word (log entry 10). -/

namespace Sys2Proof.Machine

/-- `00EE` RET (R110): PC = popped address + 2; fatal underflow when SP = 0 (R193). -/
def execRet (s : State) : Host.Outcome State Fault Refusal :=
  match s.pop with
  | none => .next (s.raiseFatal .stackUnderflow (encode .ret))
  | some (a, t) => .next (t.setPc (a.toNat + 2))

/-- `1NNN` JP (R111): PC = NNN. -/
def execJp (nnn : Address) (s : State) : Host.Outcome State Fault Refusal :=
  .next (s.setPc nnn.toNat)

/-- `2NNN` CALL (R112): push the whole PC of the call, PC = NNN; fatal overflow when SP = 32 (R192). -/
def execCall (nnn : Address) (s : State) : Host.Outcome State Fault Refusal :=
  match s.push s.pc with
  | none => .next (s.raiseFatal .stackOverflow (encode (.call nnn)))
  | some t => .next (t.setPc nnn.toNat)

/-- `BNNN` JP V0 (R113): PC = NNN + V0, kept as a 16-bit sum. -/
def execJpV0 (nnn : Address) (s : State) : Host.Outcome State Fault Refusal :=
  .next (s.setPc (nnn.toNat + (s.reg v0).toNat))

end Sys2Proof.Machine
end

