-- ==== Sys2Proof/Machine/Display.lean ====
section
/-! DEFINITION. Random number and display (spec/45_random_display.md R165, R166, R168): `CXNN`, `00E0`, `DXYN`. -/

namespace Sys2Proof.Machine

/-- `CXNN` RND (R165): VX = (a fresh draw) AND NN. -/
def execRnd (x : Reg) (nn : Byte) (s : State) : Host.Outcome State Fault Refusal :=
  .next ((s.countDraw.setReg x (s.drawnByte &&& nn)).advance 2)

/-- `00E0` CLS (R166): every pixel 0, redraw; VF unchanged. -/
def execCls (s : State) : Host.Outcome State Fault Refusal :=
  .next ((s.setFb Framebuffer.blank).advance 2)

/-- `DXYN` DRW (R168): XOR the sprite at (VX, VY), VF = collision, redraw on every draw. -/
def execDrw (x y : Reg) (n : Nibble) (s : State) : Host.Outcome State Fault Refusal :=
  let c := drawRows (s.reg x).toNat ⟨s.fb, false⟩ (s.reg y).toNat (s.sprite n)
  .next (((s.setFb c.fb).setFlag c.coll).advance 2)

end Sys2Proof.Machine
end

