-- ==== Sys2Proof/Machine/IndexMemory.lean ====
section
/-! DEFINITION. Index register and memory transfers (spec/44_index_memory.md R150 to R155): `ANNN`, `FX1E`, `FX29`,
`FX33`, `FX55`, `FX65`. -/

namespace Sys2Proof.Machine

/-- `ANNN` LD I (R150): I = NNN. -/
def execLdI (nnn : Address) (s : State) : Host.Outcome State Fault Refusal :=
  .next ((s.setI nnn.toNat).advance 2)

/-- `FX1E` ADD I (R151): I = (I + VX) mod 0x1000, VF = 1 iff the sum exceeds 0xFFF. -/
def execAddI (x : Reg) (s : State) : Host.Outcome State Fault Refusal :=
  let sum := s.i.toNat + (s.reg x).toNat
  .next (((s.setI sum).setFlag (decide (0xFFF < sum))).advance 2)

/-- `FX29` LD F (R152): I = 5 × VX over the whole byte. -/
def execLdF (x : Reg) (s : State) : Host.Outcome State Fault Refusal :=
  .next ((s.setI (Config.glyphBytes * (s.reg x).toNat)).advance 2)

/-- `FX33` LD B (R153): the three decimal digits of VX at I, I + 1, I + 2; I unchanged. -/
def execLdB (x : Reg) (s : State) : Host.Outcome State Fault Refusal :=
  .next ((s.storeBytes s.i.toNat (bcdDigits (s.reg x))).advance 2)

/-- `FX55` LD [I] (R154): store V0..VX at I.., then the quirk increment of I. -/
def execStoreRegs (x : Reg) (s : State) : Host.Outcome State Fault Refusal :=
  .next (((s.storeBytes s.i.toNat (s.regsUpTo x)).bumpI x).advance 2)

/-- `FX65` LD VX (R155): load V0..VX from I.., then the quirk increment of I. -/
def execLoadRegs (x : Reg) (s : State) : Host.Outcome State Fault Refusal :=
  .next (((s.loadUpTo x).bumpI x).advance 2)

end Sys2Proof.Machine
end

