-- ==== Sys2Proof/Machine/KeypadTimers.lean ====
section
/-! DEFINITION. Keypad and timers (spec/46_keypad_timers.md R175 to R180): `EX9E`, `EXA1`, `FX07`, `FX15`, `FX18`,
`FX0A`. -/

namespace Sys2Proof.Machine

/-- `EX9E` SKP (R175): skip if the key VX[3:0] is pressed. -/
def execSkp (x : Reg) (s : State) : Host.Outcome State Fault Refusal :=
  .next (s.skipIf (s.key (keyIndex (s.reg x))))

/-- `EXA1` SKNP (R176): skip if the key VX[3:0] is not pressed. -/
def execSknp (x : Reg) (s : State) : Host.Outcome State Fault Refusal :=
  .next (s.skipIf (!s.key (keyIndex (s.reg x))))

/-- `FX07` LD VX, DT (R178): DT as it is before this step's tick. -/
def execLdVxDt (x : Reg) (s : State) : Host.Outcome State Fault Refusal :=
  .next ((s.setReg x s.dt).advance 2)

/-- `FX15` LD DT, VX (R179). -/
def execLdDtVx (x : Reg) (s : State) : Host.Outcome State Fault Refusal :=
  .next ((s.setDt (s.reg x)).advance 2)

/-- `FX18` LD ST, VX (R180); never raises `sound_expiry` itself. -/
def execLdStVx (x : Reg) (s : State) : Host.Outcome State Fault Refusal :=
  .next ((s.setSt (s.reg x)).advance 2)

/-- `FX0A` LD VX, K (R177): the least pressed key; with none pressed nothing changes and the next step retries. -/
def execLdVxK (x : Reg) (s : State) : Host.Outcome State Fault Refusal :=
  match s.firstKey with
  | some k => .next ((s.setReg x (BitVec.ofNat 8 k)).advance 2)
  | none => .next s

end Sys2Proof.Machine
end

