-- ==== Sys2Proof/Machine/LoadAlu.lean ====
section
/-! DEFINITION. Register load and ALU (spec/43_load_alu.md R130 to R141): `6XNN`, `7XNN`, `8XY0` to `8XY7`, `8XYE`. -/

namespace Sys2Proof.Machine

/-- `6XNN` LD (R130): VX = NN. -/
def execLdImm (x : Reg) (nn : Byte) (s : State) : Host.Outcome State Fault Refusal :=
  .next ((s.setReg x nn).advance 2)

/-- `7XNN` ADD (R131): VX = (VX + NN) mod 256, no flag. -/
def execAddImm (x : Reg) (nn : Byte) (s : State) : Host.Outcome State Fault Refusal :=
  .next ((s.setReg x (aluAdd (s.reg x) nn).1).advance 2)

/-- `8XY0` LD (R132): VX = VY. -/
def execLdReg (x y : Reg) (s : State) : Host.Outcome State Fault Refusal :=
  .next ((s.setReg x (s.reg y)).advance 2)

/-- `8XY1` OR (R133); VF unchanged. -/
def execOrReg (x y : Reg) (s : State) : Host.Outcome State Fault Refusal :=
  .next ((s.setReg x (s.reg x ||| s.reg y)).advance 2)

/-- `8XY2` AND (R134); VF unchanged. -/
def execAndReg (x y : Reg) (s : State) : Host.Outcome State Fault Refusal :=
  .next ((s.setReg x (s.reg x &&& s.reg y)).advance 2)

/-- `8XY3` XOR (R135); VF unchanged. -/
def execXorReg (x y : Reg) (s : State) : Host.Outcome State Fault Refusal :=
  .next ((s.setReg x (s.reg x ^^^ s.reg y)).advance 2)

/-- `8XY4` ADD (R136): VF = carry, written last. -/
def execAddReg (x y : Reg) (s : State) : Host.Outcome State Fault Refusal :=
  .next ((s.setResultFlag x (aluAdd (s.reg x) (s.reg y))).advance 2)

/-- `8XY5` SUB (R137): VX - VY, VF = no borrow, written last. -/
def execSub (x y : Reg) (s : State) : Host.Outcome State Fault Refusal :=
  .next ((s.setResultFlag x (aluSub (s.reg x) (s.reg y))).advance 2)

/-- `8XY6` SHR (R139): VF = bit 0 of the shift source, written last. -/
def execShr (x y : Reg) (s : State) : Host.Outcome State Fault Refusal :=
  .next ((s.setResultFlag x (aluShr (s.shiftSource x y))).advance 2)

/-- `8XY7` SUBN (R140): VY - VX, VF = no borrow, written last. -/
def execSubn (x y : Reg) (s : State) : Host.Outcome State Fault Refusal :=
  .next ((s.setResultFlag x (aluSub (s.reg y) (s.reg x))).advance 2)

/-- `8XYE` SHL (R141): VF = bit 7 of the shift source, written last. -/
def execShl (x y : Reg) (s : State) : Host.Outcome State Fault Refusal :=
  .next ((s.setResultFlag x (aluShl (s.shiftSource x y))).advance 2)

end Sys2Proof.Machine
end

