-- ==== Sys2Proof/Machine/Timers.lean ====
section
/-! DEFINITION. The Timer Driver (spec/60_exceptions.md R202, R203) and the end of a step
(spec/40_step_cycle.md R91, R98). -/

namespace Sys2Proof.Machine

/-- Decrement by 1 if non-zero: never below 0 (R202). -/
def countDown (b : Byte) : Byte := if b = 0 then 0 else b - 1

/-- A tick: the counter returns to 0, each timer counts down on its own, and `sound_expiry` is raised
exactly when the sound timer goes from 1 to 0 (R202, R203). -/
def State.tick (s : State) : State :=
  { s with tickCtr := 0, dt := countDown s.dt, st := countDown s.st, soundExpiry := s.soundExpiry || decide (s.st = 1) }

/-- `timer_driver_tick()` of R202, run once at the end of every completed step. -/
def State.timerDriver (s : State) : State :=
  if s.tickCtr + 1 = (s.cyclesPerTick : Nat) then s.tick else { s with tickCtr := s.tickCtr + 1 }

/-- S5 TICK: a completed step clocks the Timer Driver; a step that raised a fatal condition does not (R91, R98). -/
def State.endStep (s : State) : State :=
  match s.mode with
  | .run => s.timerDriver
  | .fault => s

end Sys2Proof.Machine
end

