-- ==== Sys2Proof/Machine/Step.lean ====
section
/-! DEFINITION. `step()` of spec/40_step_cycle.md R91, and the host's way to place one instruction. -/

namespace Sys2Proof.Machine

/-- One step: guard (R95), fetch (R92), decode (R93), execute and commit (R94), tick (R98). Every fatal
condition is a next state in FAULT mode (R199, log entry 9). -/
def step (s : State) : Host.Outcome State Fault Refusal :=
  match s.mode with
  | .fault => .next s.inertStep
  | .run =>
    match decode s.fetchWord with
    | none => .next (s.raiseFatal .unknownOpcode s.fetchWord)
    | some i =>
      match exec i s.beginStep with
      | .next t => .next t.endStep
      | .fault r => .fault r
      | .refused r => .refused r

/-- The table word stored at the PC, so that the next step in RUN mode fetches it; nothing else changes
(log entry 1). -/
def State.withFetchWord (s : State) (nbits w : Nat) : State := s.placeWord (tableWord nbits w)

end Sys2Proof.Machine
end

