-- ==== Sys2Proof/Machine/HostOps.lean ====
section
/-! DEFINITION. The operations the engine offers its host beside `step()` (spec/40_step_cycle.md R90, R99
to R102; spec/70_reset_and_hazards.md R215, R217; spec/10_state.md R39) and what the host may write
between operations (spec/20_memory.md R62). -/

namespace Sys2Proof.Machine

/-- `reset()` of R215: every element to its reset value, but the quirk bits, the keys, the construction
parameters and the model's draw counter (log entry 16) stay. Memory lists nothing again, so addresses 0 to 79
read as this machine's own font table. It produces no output. -/
def State.doReset (s : State) : State :=
  { State.reset with
    qShiftY := s.qShiftY, qIncI := s.qIncI, keys := s.keys, cyclesPerTick := s.cyclesPerTick,
    font := s.font, rndCtr := s.rndCtr }

/-- Construction (R101), which ends with an implicit reset (R217): `CYCLES_PER_TICK`, the font table and the
quirk bits are given (R6), and the host's keys are whatever they are. A ratio of 0 is outside R6 and is refused
(log entry 13). -/
def State.construct (ratio : Nat) (font : FontTable) (qShiftY qIncI : Bool) (keys : Vector Bool 16) :
    Host.Outcome State Fault Refusal :=
  if h : 0 < ratio then
    .next { State.reset with cyclesPerTick := ⟨ratio, h⟩, font := font, qShiftY := qShiftY, qIncI := qIncI, keys := keys }
  else .refused .zeroCyclesPerTick

/-- `load(bytes)` of R99: copy to 0x200 and on, nothing else; a longer image than 3584 bytes has no
behaviour and is refused (R220, log entry 13). -/
def State.load (s : State) (bytes : List Byte) : Host.Outcome State Fault Refusal :=
  if bytes.length ≤ Config.maxImage then .next (s.storeBytes Config.progBase bytes)
  else .refused (.imageTooLong bytes.length)

/-- `set_quirks(s, i)` of R100. -/
def State.setQuirks (s : State) (qShiftY qIncI : Bool) : State := { s with qShiftY := qShiftY, qIncI := qIncI }

/-- The host's input collaborator fills the key-state vector between operations (R33, R62). -/
def State.hostKeys (s : State) (keys : Vector Bool 16) : State := { s with keys := keys }

/-- The host writes a pixel of the framebuffer it owns, between operations (R32, R62). -/
def State.hostPixel (s : State) (x : Fin 64) (y : Fin 32) (b : Bool) : State :=
  { s with fb := fbWrite s.fb x.val y.val b }

/-- The end of a run, which R102 leaves to the model (spec decision D42, log entry 21): one of the two states
it offers as stable, FAULT mode or the PC at a `1NNN` whose NNN is its own address. Waiting in `FX0A` is no end. -/
def State.runEnded (s : State) : Bool :=
  match s.mode with
  | .fault => true
  | .run =>
    match decode s.fetchWord with
    | some (.jp nnn) => s.pc.toNat == nnn.toNat
    | _ => false

/-- What the read accessors of R39 show, each at its own width. -/
structure Diagnostics where
  v : Vector Byte 16
  pc : Word
  i : Word
  sp : BitVec 6
  dt : Byte
  st : Byte
  mode : Mode
  err : BitVec 2
  errOp : Word
  deriving DecidableEq, Repr

/-- The numeric code of a fatal condition (R190). -/
def errNumber : ErrCode → BitVec 2
  | .none => 0
  | .unknownOpcode => 1
  | .stackOverflow => 2
  | .stackUnderflow => 3

/-- The read accessors of R39: the committed values, with no side effect. -/
def State.diagnostics (s : State) : Diagnostics where
  v := s.v
  pc := s.pc
  i := s.i
  sp := BitVec.ofNat 6 s.sp.val
  dt := s.dt
  st := s.st
  mode := s.mode
  err := errNumber s.err
  errOp := s.errOp

/-- What the host can do, one operation at a time (R62, R90). -/
inductive HostOp where
  | reset
  | load (bytes : List Byte)
  | step
  | setQuirks (qShiftY qIncI : Bool)
  | keys (keys : Vector Bool 16)
  | pixel (x : Fin 64) (y : Fin 32) (b : Bool)

/-- One host operation (R90): allowed in any state, FAULT mode included. -/
def hostOp : HostOp → State → Host.Outcome State Fault Refusal
  | .reset, s => .next s.doReset
  | .load bytes, s => s.load bytes
  | .step, s => Sys2Proof.Machine.step s
  | .setQuirks a b, s => .next (s.setQuirks a b)
  | .keys ks, s => .next (s.hostKeys ks)
  | .pixel x y b, s => .next (s.hostPixel x y b)

end Sys2Proof.Machine
end

