-- ==== Sys2Proof/Safety.lean ====
section
/-! DEFINITION. What the statements mean by a legal state, by "unchanged", and by a run of the machine
(spec/10_state.md R40; spec/40_step_cycle.md R90). -/

namespace Sys2Proof

open Machine

/-- The invariants of R40 that the state's types do not already hold, with two clauses that R40 does not
list: R35's word on the `fault` output, which the state keeps from the latest step (log entry 2), and the
memory's canonical form, which is the model's own representation (log entry 8). -/
structure Legal (s : State) : Prop where
  /-- `I ≤ 0xFFF` (R23; the spec's decision D5) -/
  index : s.i.toNat ≤ 0xFFF
  /-- `TICK_CTR < CYCLES_PER_TICK` (R29; its reset value is the spec's decision D22) -/
  counter : s.tickCtr < (s.cyclesPerTick : Nat)
  /-- `ERR ≠ 0` exactly when `MODE = FAULT` (R30; the spec's decision D21) -/
  latch : s.err ≠ .none ↔ s.mode = .fault
  /-- `ERR_OP = 0` while `MODE = RUN` (R30; the spec's decision D21) -/
  word : s.mode = .run → s.errOp = 0
  /-- the `fault` output is 0 while `MODE = RUN`: no condition was raised or is latched (R35) -/
  output : s.mode = .run → s.faultOut = .none
  /-- the model's own: the memory is in its canonical form, inside the 4096 cells (log entry 8) -/
  memory : Memory.wf s.font s.mem

/-- Only registers among `ws` and the PC may differ from `s` to `t`; every byte of memory reads as before. -/
def OnlyRegsPc (ws : List Reg) (s t : State) : Prop :=
  t = { s with v := t.v, pc := t.pc } ∧ (∀ r, r ∉ ws → t.reg r = s.reg r) ∧ ∀ a, t.memRead a = s.memRead a

/-- As `OnlyRegsPc`, and I may differ too. -/
def OnlyRegsIndexPc (ws : List Reg) (s t : State) : Prop :=
  t = { s with v := t.v, i := t.i, pc := t.pc } ∧ (∀ r, r ∉ ws → t.reg r = s.reg r) ∧ ∀ a, t.memRead a = s.memRead a

/-- Only memory, I and the PC may differ, and of memory only the `n` cells from address `a`, each wrapped
modulo 4096 (R51). -/
def OnlyBytesIndexPc (a n : Nat) (s t : State) : Prop :=
  t = { s with mem := t.mem, i := t.i, pc := t.pc } ∧
    ∀ b, (∀ k, k < n → b % 4096 ≠ (a + k) % 4096) → t.memRead b = s.memRead b

/-- The instructions that overwrite VF as a flag (R21). -/
def Instr.writesFlag : Instr → Bool
  | .addReg _ _ | .sub _ _ | .shr _ _ | .subn _ _ | .shl _ _ | .drw _ _ _ | .addI _ => true
  | _ => false

/-- The general registers an instruction may write: the access table of R20. -/
def Instr.writes : Instr → List Reg
  | .ldImm x _ | .addImm x _ | .rnd x _ | .ldVxDt x | .ldVxK x => [x]
  | .ldReg x _ | .orReg x _ | .andReg x _ | .xorReg x _ => [x]
  | .addReg x _ | .sub x _ | .shr x _ | .subn x _ | .shl x _ => [x, vF]
  | .drw _ _ _ | .addI _ => [vF]
  | .loadRegs x => (List.finRange 16).filter fun k => decide (k ≤ x)
  | _ => []

/-- The pixel `(px, py)` is covered by a set bit of the sprite `rows` drawn at `(x, y)` (R167, R168): some
row and column land on it modulo 32 and 64, and bit `7 - column` of that row's byte is 1. -/
def Covers (rows : List Byte) (x y px py : Nat) : Prop :=
  ∃ row, ∃ h : row < rows.length, ∃ col, col < 8 ∧ rows[row].getLsbD (7 - col) = true ∧
    (x + col) % 64 = px % 64 ∧ (y + row) % 32 = py % 32

/-- Every element that `reset()` writes is at the value R37 gives it, memory with this machine's own font
table (tick counter, mode and latch: the spec's decisions D22, D21). -/
structure ResetValues (t : State) : Prop where
  regs : ∀ r : Reg, t.reg r = 0
  pc : t.pc = 0x0200
  index : t.i = 0
  stack : ∀ k : Fin 32, t.stack[k.val] = 0
  sp : t.sp = 0
  timers : t.dt = 0 ∧ t.st = 0
  glyphs : ∀ k : Fin 80, t.memRead k.val = t.font[k.val]
  memory : ∀ a, 80 ≤ a → a < 4096 → t.memRead a = 0
  pixels : ∀ x y, fbRead t.fb x y = false
  counter : t.tickCtr = 0
  latch : t.mode = .run ∧ t.err = .none ∧ t.errOp = 0

/-- The states reachable by host operations from any construction (R90, R101, R217). -/
inductive Reachable : State → Prop where
  | construct {ratio font a b ks s} : State.construct ratio font a b ks = .next s → Reachable s
  | op {o s t} : Reachable s → hostOp o s = .next t → Reachable t

end Sys2Proof
end

