-- ==== Sys2Proof/Certificates/Slice0/Obligations.lean ====
section
/-! DEFINITION. The statements for the provers. Each docstring names the rule of spec/ it formalises, and
the spec's own decision (D.., marked in the rule) or the log entry it rests on, where there is one. -/

open Sys2Proof Sys2Proof.Machine

/-! ### Encoding (spec/30_encoding.md) -/

/-- Words written out from R71, R72 and R75 decode to the instructions they stand for, one or more for
each of the sixteen families (R12); four words that miss a fixed digit do not (R76). -/
def Obligations.DecodesWordsWrittenFromTheMap : Prop :=
  decode 0x00E0 = some .cls ∧ decode 0x00EE = some .ret ∧ decode 0x1ABC = some (.jp 0xABC) ∧
  decode 0x220C = some (.call 0x20C) ∧ decode 0x332A = some (.seImm 3 0x2A) ∧ decode 0x4A42 = some (.sneImm 10 0x42) ∧
  decode 0x5120 = some (.seReg 1 2) ∧ decode 0x7A01 = some (.addImm 10 0x01) ∧ decode 0xA2F0 = some (.ldI 0x2F0) ∧
  decode 0x9120 = some (.sneReg 1 2) ∧
  decode 0x6A7F = some (.ldImm 10 0x7F) ∧ decode 0x812E = some (.shl 1 2) ∧ decode 0x8AF5 = some (.sub 10 15) ∧
  decode 0xBFFF = some (.jpV0 0xFFF) ∧ decode 0xC10F = some (.rnd 1 0x0F) ∧ decode 0xD125 = some (.drw 1 2 5) ∧
  decode 0xEFA1 = some (.sknp 15) ∧ decode 0xF30A = some (.ldVxK 3) ∧ decode 0xFF65 = some (.loadRegs 15) ∧
  decode 0x0000 = none ∧ decode 0x5AB1 = none ∧ decode 0x8AB8 = none ∧ decode 0xF13A = none

/-- Decoding the word of any instruction gives that instruction back, every operand at every value
(R71, R72, R75). -/
def Obligations.DecodeUndoesEncode : Prop := ∀ i : Instr, decode (encode i) = some i

/-- Each legal word has one meaning: the instruction read from it encodes to that word (R75). -/
def Obligations.EncodeUndoesDecode : Prop := ∀ (w : Word) (i : Instr), decode w = some i → encode i = w

/-- A word is an instruction exactly when its masked bits are the row's, for every row of the map (R75). -/
def Obligations.DecodeFollowsTheOpcodeMap : Prop :=
  (∀ (w : Word) (i : Instr), decode w = some i → w &&& i.row.mask = i.row.fixed) ∧
  (∀ (w : Word), ∀ r ∈ opcodeMap, w &&& r.mask = r.fixed → ∃ i, decode w = some i ∧ i.row = r)

/-- No word matches two rows of the opcode map (R74: "No two patterns overlap"). -/
def Obligations.NoWordMatchesTwoRows : Prop :=
  ∀ (w : Word), ∀ r ∈ opcodeMap, ∀ q ∈ opcodeMap, w &&& r.mask = r.fixed → w &&& q.mask = q.fixed → r = q

/-- The unknown words, family by family, are those of the table of R76. -/
def Obligations.UnknownWordsByFamily : Prop :=
  ∀ w : Word, decode w = none ↔
    (w.toNat / 4096 = 0 ∧ w.toNat ≠ 0x00E0 ∧ w.toNat ≠ 0x00EE) ∨
    (w.toNat / 4096 = 5 ∧ w.toNat % 16 ≠ 0) ∨
    (w.toNat / 4096 = 8 ∧ 8 ≤ w.toNat % 16 ∧ w.toNat % 16 ≠ 0xE) ∨
    (w.toNat / 4096 = 9 ∧ w.toNat % 16 ≠ 0) ∨
    (w.toNat / 4096 = 0xE ∧ w.toNat % 256 ≠ 0x9E ∧ w.toNat % 256 ≠ 0xA1) ∨
    (w.toNat / 4096 = 0xF ∧ w.toNat % 256 ∉ [0x07, 0x0A, 0x15, 0x18, 0x1E, 0x29, 0x33, 0x55, 0x65])

/-! ### The step (spec/40_step_cycle.md) -/

/-- R92: the word fetched has the byte at PC mod 4096 as its high byte and the byte at (PC + 1) mod 4096 as
its low byte, for every PC. -/
def Obligations.FetchIsBigEndianAndWraps : Prop :=
  ∀ s : State, s.fetchWord.toNat =
    (s.memRead (s.pc.toNat % 4096)).toNat * 256 + (s.memRead ((s.pc.toNat + 1) % 4096)).toNat

/-- A step in RUN mode whose fetched word decodes runs exactly that instruction, on the state with this
step's outputs at 0, and ends with the Timer Driver if no fatal condition was raised (R91, R93, R98). -/
def Obligations.StepRunsTheDecodedInstruction : Prop :=
  ∀ (s : State) (i : Instr), s.mode = .run → decode s.fetchWord = some i →
    step s = match exec i s.beginStep with
      | .next t => .next t.endStep
      | .fault r => .fault r
      | .refused r => .refused r

/-- An instruction whose word is stored at the PC is the one the next step runs, wherever the PC is,
with the address wrap of R51 (R52, R63, R92). -/
def Obligations.StoredInstructionIsRunNext : Prop :=
  ∀ (s t : State) (i : Instr), s.mode = .run →
    exec i (s.withFetchWord 16 (encode i).toNat).beginStep = .next t →
    step (s.withFetchWord 16 (encode i).toNat) = .next t.endStep

/-- Every step and every instruction ends in a next state: `step()` "always runs to completion" (R90). -/
def Obligations.EveryStepCompletes : Prop :=
  (∀ (i : Instr) (s : State), ∃ t, exec i s = .next t) ∧ ∀ s : State, ∃ t, step s = .next t

/-- R97 with the spec's decisions D14 and D15: `redraw` is 1 exactly after a completed `00E0` or `DXYN`. -/
def Obligations.RedrawExactlyAfterClearOrDraw : Prop :=
  ∀ s t : State, step s = .next t →
    (t.redraw = true ↔ s.mode = .run ∧ (decode s.fetchWord = some .cls ∨ ∃ x y n, decode s.fetchWord = some (.drw x y n)))

/-- R98 and R202 with the spec's decisions D22 and D40: after an instruction that leaves the state `m`, the
step returns `fault` = 0 (R35, R91) and counts itself; on a tick both timers go down by at most 1, never below 0,
and `sound_expiry` is 1 exactly when the sound timer goes from 1 to 0 (R203). -/
def Obligations.CompletedStepClocksTheTimers : Prop :=
  ∀ (s m t : State) (i : Instr), s.mode = .run → decode s.fetchWord = some i → exec i s.beginStep = .next m →
    m.mode = .run → step s = .next t →
    t.faultOut = .none ∧
    (s.tickCtr + 1 = (s.cyclesPerTick : Nat) →
      t.tickCtr = 0 ∧ t.dt.toNat = m.dt.toNat - 1 ∧ t.st.toNat = m.st.toNat - 1 ∧ (t.soundExpiry = true ↔ m.st = 1)) ∧
    (s.tickCtr + 1 ≠ (s.cyclesPerTick : Nat) →
      t.tickCtr = s.tickCtr + 1 ∧ t.dt = m.dt ∧ t.st = m.st ∧ t.soundExpiry = false)

/-- R202 over a run of any length, from any state whose counter is in range: after `k` completed steps the
counter has advanced by `k` modulo `CYCLES_PER_TICK` (the spec's decision D22). -/
def Obligations.TickCounterCountsCompletedSteps : Prop :=
  ∀ (k : Nat) (s t : State), s.tickCtr < (s.cyclesPerTick : Nat) → s.mode = .run →
    Host.Core.run Sys2Proof.core k s = .next t → t.mode = .run →
    t.tickCtr = (s.tickCtr + k) % (s.cyclesPerTick : Nat)

/-- R102 (the spec's derivation): at a jump to itself a completed step leaves everything but `TICK_CTR`, DT,
ST and the step's outputs as it was. -/
def Obligations.SelfJumpIsStable : Prop :=
  ∀ (s : State) (nnn : Address), s.mode = .run → decode s.fetchWord = some (.jp nnn) → s.pc.toNat = nnn.toNat →
    ∃ t, step s = .next t ∧
      t = { s.beginStep with tickCtr := t.tickCtr, dt := t.dt, st := t.st, soundExpiry := t.soundExpiry }

/-- R102, which leaves the end of a run to the model (the spec's decision D42; the model's choice, log entry 21): a
run has ended in FAULT mode and at a jump to itself, nowhere else; a run that has ended stays ended, and further
steps change nothing but `TICK_CTR`, DT, ST and the step's outputs. -/
def Obligations.EndedRunStaysEnded : Prop :=
  ∀ s : State,
    (s.runEnded = true ↔
      s.mode = .fault ∨ ∃ nnn, decode s.fetchWord = some (.jp nnn) ∧ s.pc.toNat = nnn.toNat) ∧
    ∀ t, s.runEnded = true → step s = .next t →
      t.runEnded = true ∧
      t = { s with tickCtr := t.tickCtr, dt := t.dt, st := t.st, redraw := t.redraw, soundExpiry := t.soundExpiry, faultOut := t.faultOut }

/-- R113 (the spec's derivation; the 16-bit PC and sum are the spec's decisions D3 and D32): a step takes the PC from
the 4096 addresses to a value above them in three ways only: `BNNN` with a sum of at least 0x1000, which the PC
then is; a `+2` or `+4` advance from a PC in 0xFFC..0xFFF; `00EE`, the PC being the popped entry `STACK[SP - 1]` plus 2.
A `1NNN`, and a `2NNN` that has room on the stack, bring it back to the 4096 addresses from anywhere. -/
def Obligations.PcPassesTheTopInThreeWaysOnly : Prop :=
  (∀ s t : State, step s = .next t → s.pc.toNat < 0x1000 → 0x1000 ≤ t.pc.toNat →
    (∃ nnn, decode s.fetchWord = some (.jpV0 nnn) ∧ 0x1000 ≤ nnn.toNat + (s.reg v0).toNat ∧
      t.pc.toNat = nnn.toNat + (s.reg v0).toNat) ∨
    (0xFFC ≤ s.pc.toNat ∧ (t.pc = s.pc + 2 ∨ t.pc = s.pc + 4)) ∨
    (decode s.fetchWord = some .ret ∧ ∃ k : Fin 32, k.val + 1 = s.sp.val ∧ t.pc = s.stack[k.val] + 2)) ∧
  (∀ (s t : State) (nnn : Address), s.mode = .run → step s = .next t →
    decode s.fetchWord = some (.jp nnn) ∨ (decode s.fetchWord = some (.call nnn) ∧ s.sp.val < 32) →
    t.pc.toNat < 0x1000)

/-! ### Fatal conditions (spec/60_exceptions.md) -/

/-- R192 and R193 (the codes' names and MODE are the spec's decision D21): a call on the full stack is fatal and
pushes nothing, a return on the empty stack is fatal and pops nothing; SP, the stack and the PC stay. -/
def Obligations.FullCallAndEmptyReturnMoveNothing : Prop :=
  (∀ (s : State) (nnn : Address), s.sp.val = 32 →
    ∃ t, exec (.call nnn) s = .next t ∧ t.mode = .fault ∧ t.err = .stackOverflow ∧
      t.stack = s.stack ∧ t.sp = s.sp ∧ t.pc = s.pc) ∧
  (∀ s : State, s.sp.val = 0 →
    ∃ t, exec .ret s = .next t ∧ t.mode = .fault ∧ t.err = .stackUnderflow ∧
      t.stack = s.stack ∧ t.sp = s.sp ∧ t.pc = s.pc)

/-- R190: from RUN mode a step enters FAULT mode in exactly three cases, each with its own code (the codes'
names are the spec's decision D21). -/
def Obligations.FatalConditionsAreExactlyThree : Prop :=
  ∀ s t : State, s.mode = .run → step s = .next t →
    (t.mode = .fault ∧ t.err = .unknownOpcode ↔ decode s.fetchWord = none) ∧
    (t.mode = .fault ∧ t.err = .stackOverflow ↔ (∃ nnn, decode s.fetchWord = some (.call nnn)) ∧ s.sp.val = 32) ∧
    (t.mode = .fault ∧ t.err = .stackUnderflow ↔ decode s.fetchWord = some .ret ∧ s.sp.val = 0) ∧
    (t.mode = .fault → t.err ≠ .none)

/-- R199 with the spec's decision D21: a fatal step latches MODE, the code and the fetched word, returns
`(0, 0, code)`, and changes nothing else: no register, no byte of memory, no timer, not `TICK_CTR`. -/
def Obligations.FatalStepLatchesAndKeepsTheRest : Prop :=
  ∀ s t : State, s.mode = .run → step s = .next t → t.mode = .fault →
    t = { s with mode := .fault, err := t.err, errOp := s.fetchWord, redraw := false, soundExpiry := false, faultOut := t.err } ∧
    ∀ a, t.memRead a = s.memRead a

/-- R95 with the spec's decision D37: a step in FAULT mode changes nothing and returns `(0, 0, ERR)`. -/
def Obligations.FaultModeStepIsInert : Prop :=
  ∀ s : State, s.mode = .fault →
    ∃ t, step s = .next t ∧ t.faultOut = s.err ∧ t.redraw = false ∧ t.soundExpiry = false ∧
      { t with redraw := s.redraw, soundExpiry := s.soundExpiry, faultOut := s.faultOut } = s

/-- R200 with the spec's decision D21: of the host's operations only `reset()` leaves FAULT mode. -/
def Obligations.OnlyResetLeavesFaultMode : Prop :=
  ∀ (o : HostOp) (s t : State), s.mode = .fault → hostOp o s = .next t → t.mode = .run → o = .reset

/-! ### Control transfer (spec/41_control_flow.md) -/

/-- R110, with the 16-bit wrap of the spec's decision D36: `00EE` on a stack that is not empty takes 1 from
SP and goes to the entry below SP plus 2; every entry keeps its value. -/
def Obligations.ReturnGoesPastTheCall : Prop :=
  ∀ s : State, 0 < s.sp.val →
    ∃ t, exec .ret s = .next t ∧ t.sp.val + 1 = s.sp.val ∧
      (∀ k : Fin 32, k.val + 1 = s.sp.val → t.pc = s.stack[k.val] + 2) ∧
      t = { s with sp := t.sp, pc := t.pc } ∧ ∀ a, t.memRead a = s.memRead a

/-- R111, any NNN accepted (the spec's decision D33): `1NNN` sets the PC to NNN and changes nothing else. -/
def Obligations.JumpGoesToItsAddress : Prop :=
  ∀ (nnn : Address) (s : State),
    ∃ t, exec (.jp nnn) s = .next t ∧ t.pc.toNat = nnn.toNat ∧ OnlyRegsPc [] s t

/-- R112, the whole PC pushed (the spec's decisions D3, D7): `2NNN` with room stores its own address at
`STACK[SP]`, adds 1 to SP, and goes to NNN; every other entry stays. -/
def Obligations.CallPushesItsOwnAddress : Prop :=
  ∀ (nnn : Address) (s : State), s.sp.val < 32 →
    ∃ t, exec (.call nnn) s = .next t ∧ t.sp.val = s.sp.val + 1 ∧ t.pc.toNat = nnn.toNat ∧
      (∀ k : Fin 32, t.stack[k.val] = if k.val = s.sp.val then s.pc else s.stack[k.val]) ∧
      t = { s with stack := t.stack, sp := t.sp, pc := t.pc } ∧ ∀ a, t.memRead a = s.memRead a

/-- R110's property, for every state with room: a call followed by a return comes back to the call's address
plus 2, with the stack pointer and all entries below it as before. -/
def Obligations.CallThenReturnComesBack : Prop :=
  ∀ (nnn : Address) (s : State), s.sp.val < 32 →
    ∃ t u, exec (.call nnn) s = .next t ∧ exec .ret t = .next u ∧ u.pc = s.pc + 2 ∧ u.sp = s.sp ∧
      (∀ k : Fin 32, k.val < s.sp.val → u.stack[k.val] = s.stack[k.val]) ∧ u = { s with stack := u.stack, pc := u.pc }

/-- R113, the sum kept at 16 bits (the spec's decision D32): `BNNN` sets the PC to NNN + V0. -/
def Obligations.JumpWithOffsetAddsV0 : Prop :=
  ∀ (nnn : Address) (s : State),
    ∃ t, exec (.jpV0 nnn) s = .next t ∧ t.pc.toNat = nnn.toNat + (s.reg v0).toNat ∧ OnlyRegsPc [] s t

/-! ### Skips (spec/42_skips.md, spec/46_keypad_timers.md) -/

/-- R120 and R121 (which of the two skips on equality is the spec's decision D10): `3XNN` skips when VX = NN,
`4XNN` when VX ≠ NN; nothing but the PC changes. -/
def Obligations.SkipsOnImmediate : Prop :=
  ∀ (x : Reg) (nn : Byte) (s : State),
    (∃ t, exec (.seImm x nn) s = .next t ∧ t.pc = (if s.reg x = nn then s.pc + 4 else s.pc + 2) ∧ OnlyRegsPc [] s t) ∧
    (∃ t, exec (.sneImm x nn) s = .next t ∧ t.pc = (if s.reg x = nn then s.pc + 2 else s.pc + 4) ∧ OnlyRegsPc [] s t)

/-- R122 and R123: `5XY0` skips when VX = VY, `9XY0` when they differ; nothing but the PC changes. -/
def Obligations.SkipsOnRegisters : Prop :=
  ∀ (x y : Reg) (s : State),
    (∃ t, exec (.seReg x y) s = .next t ∧ t.pc = (if s.reg x = s.reg y then s.pc + 4 else s.pc + 2) ∧ OnlyRegsPc [] s t) ∧
    (∃ t, exec (.sneReg x y) s = .next t ∧ t.pc = (if s.reg x = s.reg y then s.pc + 2 else s.pc + 4) ∧ OnlyRegsPc [] s t)

/-- R175, R176, R181 (polarity and key index are the spec's decision D11): `EX9E` skips when the key VX mod 16
is pressed, `EXA1` when it is not; nothing but the PC changes. -/
def Obligations.SkipsOnKey : Prop :=
  ∀ (x k : Reg) (s : State), k.val = (s.reg x).toNat % 16 →
    (∃ t, exec (.skp x) s = .next t ∧ t.pc = (if s.key k = true then s.pc + 4 else s.pc + 2) ∧ OnlyRegsPc [] s t) ∧
    (∃ t, exec (.sknp x) s = .next t ∧ t.pc = (if s.key k = true then s.pc + 2 else s.pc + 4) ∧ OnlyRegsPc [] s t)

/-! ### Register load and ALU (spec/43_load_alu.md) -/

/-- R130: `6XNN` sets VX to NN, VF included when X = 0xF, and changes nothing else but the PC. -/
def Obligations.LoadImmediateSetsVX : Prop :=
  ∀ (x : Reg) (nn : Byte) (s : State),
    ∃ t, exec (.ldImm x nn) s = .next t ∧ t.reg x = nn ∧ t.pc = s.pc + 2 ∧ OnlyRegsPc [x] s t

/-- R131: `7XNN` adds NN to VX modulo 256 and writes no flag: VF changes only as VX itself. -/
def Obligations.AddImmediateWrapsWithoutFlag : Prop :=
  ∀ (x : Reg) (nn : Byte) (s : State),
    ∃ t, exec (.addImm x nn) s = .next t ∧ (t.reg x).toNat = ((s.reg x).toNat + nn.toNat) % 256 ∧
      t.pc = s.pc + 2 ∧ OnlyRegsPc [x] s t

/-- R132 to R135 (that VX is the destination is the spec's decision D13): copy, OR, AND, XOR into VX, no flag. -/
def Obligations.CopyAndBitwiseIntoVX : Prop :=
  ∀ (x y : Reg) (s : State),
    (∃ t, exec (.ldReg x y) s = .next t ∧ t.reg x = s.reg y ∧ t.pc = s.pc + 2 ∧ OnlyRegsPc [x] s t) ∧
    (∃ t, exec (.orReg x y) s = .next t ∧ t.reg x = s.reg x ||| s.reg y ∧ t.pc = s.pc + 2 ∧ OnlyRegsPc [x] s t) ∧
    (∃ t, exec (.andReg x y) s = .next t ∧ t.reg x = s.reg x &&& s.reg y ∧ t.pc = s.pc + 2 ∧ OnlyRegsPc [x] s t) ∧
    (∃ t, exec (.xorReg x y) s = .next t ∧ t.reg x = s.reg x ^^^ s.reg y ∧ t.pc = s.pc + 2 ∧ OnlyRegsPc [x] s t)

/-- R136, with the flag written last (the spec's decision D8): VF is the carry for every X and Y, and VX is the
sum modulo 256 when X is not VF. -/
def Obligations.AddSetsCarry : Prop :=
  ∀ (x y : Reg) (s : State),
    ∃ t, exec (.addReg x y) s = .next t ∧
      t.reg vF = (if 256 ≤ (s.reg x).toNat + (s.reg y).toNat then 1 else 0) ∧
      (x ≠ vF → t.reg x = s.reg x + s.reg y) ∧ t.pc = s.pc + 2 ∧ OnlyRegsPc [x, vF] s t

/-- R137 and R140, with the flag written last (the spec's decision D8): VF is 1 exactly when the minuend is at
least the subtrahend, and VX is the difference modulo 256 when X is not VF. -/
def Obligations.SubtractSetsNoBorrow : Prop :=
  ∀ (x y : Reg) (s : State),
    (∃ t, exec (.sub x y) s = .next t ∧ t.reg vF = (if (s.reg y).toNat ≤ (s.reg x).toNat then 1 else 0) ∧
      (x ≠ vF → t.reg x = s.reg x - s.reg y) ∧ t.pc = s.pc + 2 ∧ OnlyRegsPc [x, vF] s t) ∧
    (∃ t, exec (.subn x y) s = .next t ∧ t.reg vF = (if (s.reg x).toNat ≤ (s.reg y).toNat then 1 else 0) ∧
      (x ≠ vF → t.reg x = s.reg y - s.reg x) ∧ t.pc = s.pc + 2 ∧ OnlyRegsPc [x, vF] s t)

/-- R138, R139, R141 (destination D13, flag last D8): the source `b` is VY or VX by the quirk bit; VF is the bit
shifted out and VX the shifted byte when X is not VF. -/
def Obligations.ShiftsByOneBit : Prop :=
  ∀ (x y : Reg) (s : State) (b : Byte), b = (if s.qShiftY then s.reg y else s.reg x) →
    (∃ t, exec (.shr x y) s = .next t ∧ t.reg vF = (if b.toNat % 2 = 1 then 1 else 0) ∧
      (x ≠ vF → (t.reg x).toNat = b.toNat / 2) ∧ t.pc = s.pc + 2 ∧ OnlyRegsPc [x, vF] s t) ∧
    (∃ t, exec (.shl x y) s = .next t ∧ t.reg vF = (if 128 ≤ b.toNat then 1 else 0) ∧
      (x ≠ vF → (t.reg x).toNat = b.toNat * 2 % 256) ∧ t.pc = s.pc + 2 ∧ OnlyRegsPc [x, vF] s t)

/-! ### Registers and stores, over all instructions (spec/10_state.md) -/

/-- R20 and R21: an instruction changes no general register but those the access table lists for it; in
particular VF changes only by the seven flag writers or as the explicit destination. -/
def Obligations.OnlyListedRegistersAreWritten : Prop :=
  ∀ (i : Instr) (s t : State), exec i s = .next t → ∀ r : Reg, r ∉ i.writes → t.reg r = s.reg r

/-- R21: each of the seven flag writers leaves VF at 0 or 1 on every execution. -/
def Obligations.FlagWritersLeaveZeroOrOne : Prop :=
  ∀ (i : Instr) (s t : State), i.writesFlag = true → exec i s = .next t → t.reg vF = 0 ∨ t.reg vF = 1

/-- R38 and R58: each store is written only by its own instructions: memory by `FX33` and `FX55`, the stack by
`2NNN`, SP by `2NNN` and `00EE`, the framebuffer by `00E0` and `DXYN`, DT by `FX15`, ST by `FX18`, I by `ANNN`,
`FX1E`, `FX29`, `FX55`, `FX65`; the keys, the quirk bits, `CYCLES_PER_TICK` and `FONT` by none (R33, R28, R36). -/
def Obligations.EachStoreHasItsOwnWriters : Prop :=
  ∀ (i : Instr) (s t : State), exec i s = .next t →
    ((∀ x, i ≠ .ldB x) → (∀ x, i ≠ .storeRegs x) → ∀ a, t.memRead a = s.memRead a) ∧
    ((∀ nnn, i ≠ .call nnn) → t.stack = s.stack) ∧
    ((∀ nnn, i ≠ .call nnn) → i ≠ .ret → t.sp = s.sp) ∧
    (i ≠ .cls → (∀ x y n, i ≠ .drw x y n) → t.fb = s.fb) ∧
    ((∀ x, i ≠ .ldDtVx x) → t.dt = s.dt) ∧
    ((∀ x, i ≠ .ldStVx x) → t.st = s.st) ∧
    ((∀ nnn, i ≠ .ldI nnn) → (∀ x, i ≠ .addI x) → (∀ x, i ≠ .ldF x) → (∀ x, i ≠ .storeRegs x) →
      (∀ x, i ≠ .loadRegs x) → t.i = s.i) ∧
    t.keys = s.keys ∧ t.qShiftY = s.qShiftY ∧ t.qIncI = s.qIncI ∧ t.cyclesPerTick = s.cyclesPerTick ∧ t.font = s.font

/-- R33: only `EX9E`, `EXA1` and `FX0A` read the key-state vector: with other keys any other instruction does
the same. -/
def Obligations.KeysAreReadByThreeInstructionsOnly : Prop :=
  ∀ (i : Instr) (s t : State) (ks : Vector Bool 16),
    (∀ x, i ≠ .skp x) → (∀ x, i ≠ .sknp x) → (∀ x, i ≠ .ldVxK x) → exec i s = .next t →
    exec i { s with keys := ks } = .next { t with keys := ks }

/-- R28: the shift quirk is read by `8XY6` and `8XYE` alone, the index quirk by `FX55` and `FX65` alone. -/
def Obligations.QuirksAreReadByTheirInstructionsOnly : Prop :=
  ∀ (i : Instr) (s t : State) (q : Bool), exec i s = .next t →
    ((∀ x y, i ≠ .shr x y) → (∀ x y, i ≠ .shl x y) → exec i { s with qShiftY := q } = .next { t with qShiftY := q }) ∧
    ((∀ x, i ≠ .storeRegs x) → (∀ x, i ≠ .loadRegs x) → exec i { s with qIncI := q } = .next { t with qIncI := q })

/-! ### Index register and memory (spec/44_index_memory.md) -/

/-- R150: `ANNN` sets I to NNN and changes nothing else but the PC. -/
def Obligations.LoadIndexSetsI : Prop :=
  ∀ (nnn : Address) (s : State),
    ∃ t, exec (.ldI nnn) s = .next t ∧ t.i.toNat = nnn.toNat ∧ t.pc = s.pc + 2 ∧ OnlyRegsIndexPc [] s t

/-- R151, I wrapping modulo 0x1000 (the spec's decision D6): `FX1E` adds VX to I and writes VF with whether the
sum exceeds 0xFFF, X = 0xF included. -/
def Obligations.AddToIndexReportsOverflow : Prop :=
  ∀ (x : Reg) (s : State),
    ∃ t, exec (.addI x) s = .next t ∧ t.i.toNat = (s.i.toNat + (s.reg x).toNat) % 4096 ∧
      t.reg vF = (if 0xFFF < s.i.toNat + (s.reg x).toNat then 1 else 0) ∧ t.pc = s.pc + 2 ∧ OnlyRegsIndexPc [vF] s t

/-- R152, over the whole byte (the spec's decision D17): `FX29` sets I to 5 times VX. -/
def Obligations.PointAtGlyphIsFiveTimesVX : Prop :=
  ∀ (x : Reg) (s : State),
    ∃ t, exec (.ldF x) s = .next t ∧ t.i.toNat = 5 * (s.reg x).toNat ∧ t.pc = s.pc + 2 ∧ OnlyRegsIndexPc [] s t

/-- R153, each address wrapped on its own (R51; the spec's decision D19): `FX33` stores the three decimal digits
of VX at I, I + 1, I + 2; I and every other byte stay. -/
def Obligations.DecimalDigitsAreStoredAtI : Prop :=
  ∀ (x : Reg) (s : State),
    ∃ t, exec (.ldB x) s = .next t ∧
      (t.memRead s.i.toNat).toNat = (s.reg x).toNat / 100 ∧
      (t.memRead (s.i.toNat + 1)).toNat = (s.reg x).toNat / 10 % 10 ∧
      (t.memRead (s.i.toNat + 2)).toNat = (s.reg x).toNat % 10 ∧
      t.i = s.i ∧ t.pc = s.pc + 2 ∧ OnlyBytesIndexPc s.i.toNat 3 s t

/-- R154, the increment wrapping modulo 0x1000 (the spec's decision D5): `FX55` stores V0..VX at I..I + X, and I
moves by X + 1 exactly when `Q_INC_I` = 1; every other byte and all registers stay. -/
def Obligations.BlockStorePutsRegistersAtI : Prop :=
  ∀ (x : Reg) (s : State),
    ∃ t, exec (.storeRegs x) s = .next t ∧ (∀ k : Reg, k ≤ x → t.memRead (s.i.toNat + k.val) = s.reg k) ∧
      (s.qIncI = true → t.i.toNat = (s.i.toNat + x.val + 1) % 4096) ∧ (s.qIncI = false → t.i = s.i) ∧
      t.pc = s.pc + 2 ∧ OnlyBytesIndexPc s.i.toNat (x.val + 1) s t

/-- R155, the increment as R154 (the spec's decision D5): `FX65` loads V0..VX from I..I + X; the registers above
VX and all memory stay. -/
def Obligations.BlockLoadTakesRegistersFromI : Prop :=
  ∀ (x : Reg) (s : State),
    ∃ t, exec (.loadRegs x) s = .next t ∧ (∀ k : Reg, k ≤ x → t.reg k = s.memRead (s.i.toNat + k.val)) ∧
      (s.qIncI = true → t.i.toNat = (s.i.toNat + x.val + 1) % 4096) ∧ (s.qIncI = false → t.i = s.i) ∧
      t.pc = s.pc + 2 ∧ OnlyRegsIndexPc ((List.finRange 16).filter fun k => decide (k ≤ x)) s t

/-- R156 (the source's property): a block store in `s`, then, in any state `u` with that memory and the same I
(whatever its registers and quirk bits), a block load with the same X, gives back V0..VX of `s`. -/
def Obligations.BlockStoreThenLoadIsTheIdentity : Prop :=
  ∀ (x : Reg) (s t u w : State), exec (.storeRegs x) s = .next t → (∀ a, u.memRead a = t.memRead a) → u.i = s.i →
    exec (.loadRegs x) u = .next w → ∀ k : Reg, k ≤ x → w.reg k = s.reg k

/-! ### Random number and display (spec/45_random_display.md) -/

/-- R165, the draw being the free value of log entry 3 (R34): `CXNN` sets VX to a fresh byte AND NN, whatever
the byte is, so no bit outside NN is ever set; the old VX does not enter. -/
def Obligations.RandomByteIsMasked : Prop :=
  ∀ (x : Reg) (nn : Byte) (s : State),
    ∃ t, exec (.rnd x nn) s = .next t ∧ t.reg x = Config.freeByte s.rndCtr &&& nn ∧ t.reg x &&& ~~~nn = 0 ∧
      t.rndCtr = s.rndCtr + 1 ∧ t.pc = s.pc + 2 ∧ t = { s with v := t.v, pc := t.pc, rndCtr := t.rndCtr } ∧
      (∀ r, r ≠ x → t.reg r = s.reg r) ∧ ∀ a, t.memRead a = s.memRead a

/-- R166, with `redraw` on every clear (the spec's decision D15): `00E0` clears every pixel and changes nothing
else but the PC; VF stays. -/
def Obligations.ClearScreenZeroesEveryPixel : Prop :=
  ∀ s : State,
    ∃ t, exec .cls s = .next t ∧ (∀ x y, fbRead t.fb x y = false) ∧ t.redraw = true ∧ t.pc = s.pc + 2 ∧
      t = { s with fb := t.fb, redraw := t.redraw, pc := t.pc } ∧ ∀ a, t.memRead a = s.memRead a

/-- R167 and R168 (bit order and `redraw` are the spec's decision D14): `DXYN` inverts exactly the pixels its
sprite covers, sets VF to 1 when some covered pixel was 1 and to 0 otherwise, and changes no other register
and no byte of memory. -/
def Obligations.DrawInvertsTheCoveredPixels : Prop :=
  ∀ (x y : Reg) (n : Nibble) (s : State) (rows : List Byte),
    rows = (List.range n.toNat).map (fun k => s.memRead ((s.i.toNat + k) % 4096)) →
    ∃ t, exec (.drw x y n) s = .next t ∧
      (∀ px py, Covers rows (s.reg x).toNat (s.reg y).toNat px py → fbRead t.fb px py = !fbRead s.fb px py) ∧
      (∀ px py, ¬Covers rows (s.reg x).toNat (s.reg y).toNat px py → fbRead t.fb px py = fbRead s.fb px py) ∧
      ((∃ px py, Covers rows (s.reg x).toNat (s.reg y).toNat px py ∧ fbRead s.fb px py = true) → t.reg vF = 1) ∧
      ((∀ px py, Covers rows (s.reg x).toNat (s.reg y).toNat px py → fbRead s.fb px py = false) → t.reg vF = 0) ∧
      t.redraw = true ∧ t.pc = s.pc + 2 ∧ t = { s with v := t.v, fb := t.fb, redraw := t.redraw, pc := t.pc } ∧
      (∀ r, r ≠ vF → t.reg r = s.reg r) ∧ ∀ a, t.memRead a = s.memRead a

/-- R168: a second draw of the same sprite at the same coordinates restores the framebuffer (the source's round
trip), and reports a collision exactly when the first draw turned some pixel on (the spec's own derivation). -/
def Obligations.DrawingTwiceRestoresTheScreen : Prop :=
  ∀ (x y : Reg) (n : Nibble) (s t u : State), exec (.drw x y n) s = .next t → t.reg x = s.reg x → t.reg y = s.reg y →
    exec (.drw x y n) t = .next u →
    u.fb = s.fb ∧ (u.reg vF = 1 ↔ ∃ px py, fbRead s.fb px py = false ∧ fbRead t.fb px py = true)

/-! ### Keypad and timers (spec/46_keypad_timers.md) -/

/-- R177, the least of several keys (the spec's decision D16): `FX0A` with `k` the least pressed key sets VX to
`k` and advances. -/
def Obligations.KeyWaitTakesTheLeastPressedKey : Prop :=
  ∀ (x k : Reg) (s : State), s.key k = true → (∀ j : Reg, j < k → s.key j = false) →
    ∃ t, exec (.ldVxK x) s = .next t ∧ (t.reg x).toNat = k.val ∧ t.pc = s.pc + 2 ∧ OnlyRegsPc [x] s t

/-- R177: `FX0A` with no key pressed changes nothing, and the step that ran it still ends as a completed one,
so the timers keep running. -/
def Obligations.KeyWaitWithoutKeyChangesNothing : Prop :=
  ∀ (x : Reg) (s : State), (∀ k : Reg, s.key k = false) →
    exec (.ldVxK x) s = .next s ∧
    (s.mode = .run → decode s.fetchWord = some (.ldVxK x) → step s = .next s.beginStep.timerDriver)

/-- R178 to R180 (which pattern reads or writes which timer is the spec's decision D12): `FX07` reads DT into VX,
`FX15` writes DT and `FX18` writes ST from VX. -/
def Obligations.TimersAreReadAndWritten : Prop :=
  ∀ (x : Reg) (s : State),
    (∃ t, exec (.ldVxDt x) s = .next t ∧ t.reg x = s.dt ∧ t.pc = s.pc + 2 ∧ OnlyRegsPc [x] s t) ∧
    (∃ t, exec (.ldDtVx x) s = .next t ∧ t.dt = s.reg x ∧ t.pc = s.pc + 2 ∧ t = { s with dt := t.dt, pc := t.pc } ∧
      ∀ a, t.memRead a = s.memRead a) ∧
    (∃ t, exec (.ldStVx x) s = .next t ∧ t.st = s.reg x ∧ t.pc = s.pc + 2 ∧ t = { s with st := t.st, pc := t.pc } ∧
      ∀ a, t.memRead a = s.memRead a)

/-! ### Reset, load and invariants (spec/70_reset_and_hazards.md, spec/10_state.md) -/

/-- R37, R215 and R217 (tick counter and latch are the spec's decisions D22, D21; that the quirk bits stay is D25;
that construction ends with a reset is D2, log entry 14): `reset()` leaves the reset values, whatever the state
and the font table, and keeps the quirk bits, the keys and the parameters; construction (R101, R6) leaves the
reset values and takes its ratio, its font table, its quirk bits and the host's keys. -/
def Obligations.ResetLeavesTheResetValues : Prop :=
  (∀ s t : State, hostOp .reset s = .next t →
    ResetValues t ∧ t.qShiftY = s.qShiftY ∧ t.qIncI = s.qIncI ∧ t.keys = s.keys ∧
    t.cyclesPerTick = s.cyclesPerTick ∧ t.font = s.font) ∧
  (∀ (ratio : Nat) (font : FontTable) (shiftY incI : Bool) (keys : Vector Bool 16), 0 < ratio →
    ∃ t, State.construct ratio font shiftY incI keys = .next t ∧ ResetValues t ∧ (t.cyclesPerTick : Nat) = ratio ∧
      t.font = font ∧ t.qShiftY = shiftY ∧ t.qIncI = incI ∧ t.keys = keys)

/-- R100 with the spec's decision D25, R33 and R62: `set_quirks(s, i)` writes `Q_SHIFT_Y` and `Q_INC_I` in that order,
a write of the key vector replaces it, a write of a pixel is seen at that pixel alone; each, in any mode,
changes nothing else. -/
def Obligations.SetQuirksAndHostWritesChangeTheirElementOnly : Prop :=
  (∀ (s : State) (shiftY incI : Bool),
    ∃ t, hostOp (.setQuirks shiftY incI) s = .next t ∧ t.qShiftY = shiftY ∧ t.qIncI = incI ∧
      t = { s with qShiftY := shiftY, qIncI := incI }) ∧
  (∀ (s : State) (keys : Vector Bool 16),
    ∃ t, hostOp (.keys keys) s = .next t ∧ (∀ k : Reg, t.key k = keys[k.val]) ∧ t = { s with keys := keys }) ∧
  (∀ (s : State) (x : Fin 64) (y : Fin 32) (b : Bool),
    ∃ t, hostOp (.pixel x y b) s = .next t ∧
      (∀ (px : Fin 64) (py : Fin 32), fbRead t.fb px.val py.val = if px = x ∧ py = y then b else fbRead s.fb px.val py.val) ∧
      t = { s with fb := t.fb })

/-- R99 with the spec's decision D27 (and U2 for the refusal): `load` of at most 3584 bytes copies them to 0x200
and on and changes nothing else, in any mode; a longer image is refused. -/
def Obligations.LoadCopiesTheImage : Prop :=
  ∀ (s : State) (bytes : List Byte),
    (bytes.length ≤ 3584 →
      ∃ t, hostOp (.load bytes) s = .next t ∧ (∀ k, (h : k < bytes.length) → t.memRead (0x200 + k) = bytes[k]) ∧
        (∀ a, a < 4096 → a < 0x200 ∨ 0x200 + bytes.length ≤ a → t.memRead a = s.memRead a) ∧ t = { s with mem := t.mem }) ∧
    (3584 < bytes.length → hostOp (.load bytes) s = .refused (.imageTooLong bytes.length))

/-- The state after reset meets the invariants of R40 (those of the latch are the spec's decision D21, that of I is
D5, that of the counter D22 and the model's ratio of log entry 4), R35's word on the `fault` output (kept in the state by the
model, log entry 2), and the memory's canonical form (the model's own, log entry 8). -/
def Obligations.ResetStateIsLegal : Prop := Legal State.reset

/-- Every step keeps the invariants: of R40, I ≤ 0xFFF (the spec's decision D5), `TICK_CTR` below its ratio (D22), ERR set
exactly in FAULT mode and ERR_OP 0 in RUN mode (D21); with them the `fault` output 0 in RUN mode (R35, kept in the
state by the model, log entry 2) and the memory's canonical form, which no rule gives: it is the model's own (log entry 8). -/
def Obligations.StepKeepsTheInvariants : Prop := ∀ s t : State, Legal s → step s = .next t → Legal t

/-- R40 for the host (R90, R101): every construction meets the invariants (that it ends with a reset is the spec's
decision D2, log entry 14) and every operation of the host keeps them, `step()` and `reset()` included. The clauses rest on D5, D21 and D22; the kept `fault` output is log entry 2, the memory's canonical form
is the model's own (log entry 8). -/
def Obligations.HostOperationsKeepTheInvariants : Prop :=
  (∀ (ratio : Nat) (font : FontTable) (shiftY incI : Bool) (keys : Vector Bool 16) (t : State),
    State.construct ratio font shiftY incI keys = .next t → Legal t) ∧
  (∀ (o : HostOp) (s t : State), Legal s → hostOp o s = .next t → Legal t)
end

