-- ==== Sys2Proof/Laws/Decode.lean ====
section
/-! SUPPORT. The fields of a word and the words of the formats as numbers (spec/30_encoding.md R71, R72):
with these every encoding fact is linear arithmetic. -/

namespace Sys2Proof

theorem toNat_append_eq {m n : Nat} (a : BitVec m) (b : BitVec n) : (a ++ b).toNat = a.toNat * 2 ^ n + b.toNat := by
  rw [BitVec.toNat_append, ← Nat.shiftLeft_add_eq_or_of_lt b.isLt, Nat.shiftLeft_eq]

theorem fieldOp_toNat (w : Word) : (fieldOp w).toNat = w.toNat / 4096 := by
  have := w.isLt
  simp only [fieldOp, BitVec.extractLsb'_toNat, Nat.shiftRight_eq_div_pow]
  omega

theorem fieldX_val (w : Word) : (fieldX w).val = w.toNat / 256 % 16 := by
  show (w.extractLsb' 8 4).toNat = _
  simp only [BitVec.extractLsb'_toNat, Nat.shiftRight_eq_div_pow]

theorem fieldY_val (w : Word) : (fieldY w).val = w.toNat / 16 % 16 := by
  show (w.extractLsb' 4 4).toNat = _
  simp only [BitVec.extractLsb'_toNat, Nat.shiftRight_eq_div_pow]

theorem fieldN_toNat (w : Word) : (fieldN w).toNat = w.toNat % 16 := by
  simp [fieldN, BitVec.extractLsb'_toNat]

theorem fieldNN_toNat (w : Word) : (fieldNN w).toNat = w.toNat % 256 := by
  simp [fieldNN, BitVec.extractLsb'_toNat]

theorem fieldNNN_toNat (w : Word) : (fieldNNN w).toNat = w.toNat % 4096 := by
  simp [fieldNNN, BitVec.extractLsb'_toNat]

theorem formatA_toNat (op : Nibble) (nnn : Address) : (formatA op nnn).toNat = op.toNat * 4096 + nnn.toNat :=
  toNat_append_eq op nnn

theorem formatI_toNat (op : Nibble) (x : Reg) (nn : Byte) :
    (formatI op x nn).toNat = op.toNat * 4096 + x.val * 256 + nn.toNat := by
  have h : (formatI op x nn).toNat = ((op ++ (BitVec.ofFin x : Nibble)) ++ nn).toNat := rfl
  have hx : (BitVec.ofFin x : Nibble).toNat = x.val := rfl
  rw [h, toNat_append_eq, toNat_append_eq, hx]
  omega

theorem formatS_toNat (op : Nibble) (x : Reg) (fn : Byte) :
    (formatS op x fn).toNat = op.toNat * 4096 + x.val * 256 + fn.toNat := formatI_toNat op x fn

theorem formatR_toNat (op : Nibble) (x y : Reg) (n : Nibble) :
    (formatR op x y n).toNat = op.toNat * 4096 + x.val * 256 + y.val * 16 + n.toNat := by
  have h : (formatR op x y n).toNat = ((op ++ (BitVec.ofFin x : Nibble)) ++ (BitVec.ofFin y : Nibble) ++ n).toNat := rfl
  have hx : (BitVec.ofFin x : Nibble).toNat = x.val := rfl
  have hy : (BitVec.ofFin y : Nibble).toNat = y.val := rfl
  rw [h, toNat_append_eq, toNat_append_eq, toNat_append_eq, hx, hy]
  omega

/-- Splitting a word into its two stored bytes and reading them back big-endian loses nothing (R52). -/
@[simp] theorem wordOfBytes_high_low (w : Word) : wordOfBytes (highByte w) (lowByte w) = w := by
  apply BitVec.eq_of_toNat_eq
  have := w.isLt
  have h : (wordOfBytes (highByte w) (lowByte w)).toNat = (highByte w ++ lowByte w).toNat := rfl
  rw [h, toNat_append_eq]
  simp only [highByte, lowByte, BitVec.extractLsb'_toNat, Nat.shiftRight_eq_div_pow]
  omega

/-- A word is the concatenation of its fields, in each of the three layouts (R71, R72). -/
theorem formatA_fields (w : Word) : formatA (fieldOp w) (fieldNNN w) = w := by
  apply BitVec.eq_of_toNat_eq
  rw [formatA_toNat, fieldOp_toNat, fieldNNN_toNat]
  omega

theorem formatI_fields (w : Word) : formatI (fieldOp w) (fieldX w) (fieldNN w) = w := by
  apply BitVec.eq_of_toNat_eq
  rw [formatI_toNat, fieldOp_toNat, fieldX_val, fieldNN_toNat]
  omega

theorem formatR_fields (w : Word) : formatR (fieldOp w) (fieldX w) (fieldY w) (fieldN w) = w := by
  apply BitVec.eq_of_toNat_eq
  rw [formatR_toNat, fieldOp_toNat, fieldX_val, fieldY_val, fieldN_toNat]
  omega

/-- What the masks of the opcode map keep of a word (R75). -/
theorem formatA_and_F000 (op : Nibble) (nnn : Address) : formatA op nnn &&& 0xF000 = formatA op 0 := by
  have h : formatA op nnn &&& 0xF000 = (op ++ nnn) &&& (0xF#4 ++ 0x000#12) := rfl
  rw [h, BitVec.and_append, BitVec.and_zero, show op &&& 0xF#4 = op from BitVec.and_allOnes]
  rfl

theorem formatI_and_F000 (op : Nibble) (x : Reg) (nn : Byte) : formatI op x nn &&& 0xF000 = formatI op 0 0 := by
  have h : formatI op x nn &&& 0xF000 =
      ((op ++ (BitVec.ofFin x : Nibble)) ++ nn) &&& ((0xF#4 ++ 0x0#4) ++ 0x00#8) := rfl
  rw [h, BitVec.and_append, BitVec.and_append, BitVec.and_zero, BitVec.and_zero,
    show op &&& 0xF#4 = op from BitVec.and_allOnes]
  rfl

theorem formatI_and_F0FF (op : Nibble) (x : Reg) (nn : Byte) : formatI op x nn &&& 0xF0FF = formatI op 0 nn := by
  have h : formatI op x nn &&& 0xF0FF =
      ((op ++ (BitVec.ofFin x : Nibble)) ++ nn) &&& ((0xF#4 ++ 0x0#4) ++ 0xFF#8) := rfl
  rw [h, BitVec.and_append, BitVec.and_append, BitVec.and_zero,
    show op &&& 0xF#4 = op from BitVec.and_allOnes, show nn &&& 0xFF#8 = nn from BitVec.and_allOnes]
  rfl

theorem formatR_and_F00F (op : Nibble) (x y : Reg) (n : Nibble) : formatR op x y n &&& 0xF00F = formatR op 0 0 n := by
  have h : formatR op x y n &&& 0xF00F =
      (((op ++ (BitVec.ofFin x : Nibble)) ++ (BitVec.ofFin y : Nibble)) ++ n) &&& (((0xF#4 ++ 0x0#4) ++ 0x0#4) ++ 0xF#4) := rfl
  rw [h, BitVec.and_append, BitVec.and_append, BitVec.and_append, BitVec.and_zero, BitVec.and_zero,
    show op &&& 0xF#4 = op from BitVec.and_allOnes, show n &&& 0xF#4 = n from BitVec.and_allOnes]
  rfl

theorem formatR_and_F000 (op : Nibble) (x y : Reg) (n : Nibble) : formatR op x y n &&& 0xF000 = formatR op 0 0 0 := by
  have h : formatR op x y n &&& 0xF000 =
      (((op ++ (BitVec.ofFin x : Nibble)) ++ (BitVec.ofFin y : Nibble)) ++ n) &&& (((0xF#4 ++ 0x0#4) ++ 0x0#4) ++ 0x0#4) := rfl
  rw [h, BitVec.and_append, BitVec.and_append, BitVec.and_append, BitVec.and_zero, BitVec.and_zero, BitVec.and_zero,
    show op &&& 0xF#4 = op from BitVec.and_allOnes]
  rfl

/-- A word is accepted by a row exactly when its fixed bits are the row's (R75). -/
theorem OpcodeRow.accepts_iff (r : OpcodeRow) (w : Word) : r.accepts w = true ↔ w &&& r.mask = r.fixed := by
  simp [OpcodeRow.accepts]

end Sys2Proof
end

