-- ==== Sys2Proof/Laws/State.lean ====
section
/-! SUPPORT. One lemma per field per update of the state, so that no proof unfolds a record update;
the wrappers (`advance`, `skipIf`, `setFlag`, `setResultFlag`) rewrite to the primitive updates. -/

namespace Sys2Proof.Machine

variable (s : State)

@[simp] theorem State.setReg_v (x : Reg) (b : Byte) : (s.setReg x b).v = s.v.set x.val b := rfl
@[simp] theorem State.setReg_pc (x : Reg) (b : Byte) : (s.setReg x b).pc = s.pc := rfl
@[simp] theorem State.setReg_i (x : Reg) (b : Byte) : (s.setReg x b).i = s.i := rfl
@[simp] theorem State.setReg_stack (x : Reg) (b : Byte) : (s.setReg x b).stack = s.stack := rfl
@[simp] theorem State.setReg_sp (x : Reg) (b : Byte) : (s.setReg x b).sp = s.sp := rfl
@[simp] theorem State.setReg_dt (x : Reg) (b : Byte) : (s.setReg x b).dt = s.dt := rfl
@[simp] theorem State.setReg_st (x : Reg) (b : Byte) : (s.setReg x b).st = s.st := rfl
@[simp] theorem State.setReg_qShiftY (x : Reg) (b : Byte) : (s.setReg x b).qShiftY = s.qShiftY := rfl
@[simp] theorem State.setReg_qIncI (x : Reg) (b : Byte) : (s.setReg x b).qIncI = s.qIncI := rfl
@[simp] theorem State.setReg_tickCtr (x : Reg) (b : Byte) : (s.setReg x b).tickCtr = s.tickCtr := rfl
@[simp] theorem State.setReg_cyclesPerTick (x : Reg) (b : Byte) : (s.setReg x b).cyclesPerTick = s.cyclesPerTick := rfl
@[simp] theorem State.setReg_font (x : Reg) (b : Byte) : (s.setReg x b).font = s.font := rfl
@[simp] theorem State.setReg_mode (x : Reg) (b : Byte) : (s.setReg x b).mode = s.mode := rfl
@[simp] theorem State.setReg_err (x : Reg) (b : Byte) : (s.setReg x b).err = s.err := rfl
@[simp] theorem State.setReg_errOp (x : Reg) (b : Byte) : (s.setReg x b).errOp = s.errOp := rfl
@[simp] theorem State.setReg_mem (x : Reg) (b : Byte) : (s.setReg x b).mem = s.mem := rfl
@[simp] theorem State.setReg_fb (x : Reg) (b : Byte) : (s.setReg x b).fb = s.fb := rfl
@[simp] theorem State.setReg_keys (x : Reg) (b : Byte) : (s.setReg x b).keys = s.keys := rfl
@[simp] theorem State.setReg_rndCtr (x : Reg) (b : Byte) : (s.setReg x b).rndCtr = s.rndCtr := rfl
@[simp] theorem State.setReg_redraw (x : Reg) (b : Byte) : (s.setReg x b).redraw = s.redraw := rfl
@[simp] theorem State.setReg_soundExpiry (x : Reg) (b : Byte) : (s.setReg x b).soundExpiry = s.soundExpiry := rfl
@[simp] theorem State.setReg_faultOut (x : Reg) (b : Byte) : (s.setReg x b).faultOut = s.faultOut := rfl

@[simp] theorem State.setPc_v (n : Nat) : (s.setPc n).v = s.v := rfl
@[simp] theorem State.setPc_pc (n : Nat) : (s.setPc n).pc = BitVec.ofNat 16 n := rfl
@[simp] theorem State.setPc_i (n : Nat) : (s.setPc n).i = s.i := rfl
@[simp] theorem State.setPc_stack (n : Nat) : (s.setPc n).stack = s.stack := rfl
@[simp] theorem State.setPc_sp (n : Nat) : (s.setPc n).sp = s.sp := rfl
@[simp] theorem State.setPc_dt (n : Nat) : (s.setPc n).dt = s.dt := rfl
@[simp] theorem State.setPc_st (n : Nat) : (s.setPc n).st = s.st := rfl
@[simp] theorem State.setPc_qShiftY (n : Nat) : (s.setPc n).qShiftY = s.qShiftY := rfl
@[simp] theorem State.setPc_qIncI (n : Nat) : (s.setPc n).qIncI = s.qIncI := rfl
@[simp] theorem State.setPc_tickCtr (n : Nat) : (s.setPc n).tickCtr = s.tickCtr := rfl
@[simp] theorem State.setPc_cyclesPerTick (n : Nat) : (s.setPc n).cyclesPerTick = s.cyclesPerTick := rfl
@[simp] theorem State.setPc_font (n : Nat) : (s.setPc n).font = s.font := rfl
@[simp] theorem State.setPc_mode (n : Nat) : (s.setPc n).mode = s.mode := rfl
@[simp] theorem State.setPc_err (n : Nat) : (s.setPc n).err = s.err := rfl
@[simp] theorem State.setPc_errOp (n : Nat) : (s.setPc n).errOp = s.errOp := rfl
@[simp] theorem State.setPc_mem (n : Nat) : (s.setPc n).mem = s.mem := rfl
@[simp] theorem State.setPc_fb (n : Nat) : (s.setPc n).fb = s.fb := rfl
@[simp] theorem State.setPc_keys (n : Nat) : (s.setPc n).keys = s.keys := rfl
@[simp] theorem State.setPc_rndCtr (n : Nat) : (s.setPc n).rndCtr = s.rndCtr := rfl
@[simp] theorem State.setPc_redraw (n : Nat) : (s.setPc n).redraw = s.redraw := rfl
@[simp] theorem State.setPc_soundExpiry (n : Nat) : (s.setPc n).soundExpiry = s.soundExpiry := rfl
@[simp] theorem State.setPc_faultOut (n : Nat) : (s.setPc n).faultOut = s.faultOut := rfl

@[simp] theorem State.setI_v (n : Nat) : (s.setI n).v = s.v := rfl
@[simp] theorem State.setI_pc (n : Nat) : (s.setI n).pc = s.pc := rfl
@[simp] theorem State.setI_i (n : Nat) : (s.setI n).i = BitVec.ofNat 16 (n % 0x1000) := rfl
@[simp] theorem State.setI_stack (n : Nat) : (s.setI n).stack = s.stack := rfl
@[simp] theorem State.setI_sp (n : Nat) : (s.setI n).sp = s.sp := rfl
@[simp] theorem State.setI_dt (n : Nat) : (s.setI n).dt = s.dt := rfl
@[simp] theorem State.setI_st (n : Nat) : (s.setI n).st = s.st := rfl
@[simp] theorem State.setI_qShiftY (n : Nat) : (s.setI n).qShiftY = s.qShiftY := rfl
@[simp] theorem State.setI_qIncI (n : Nat) : (s.setI n).qIncI = s.qIncI := rfl
@[simp] theorem State.setI_tickCtr (n : Nat) : (s.setI n).tickCtr = s.tickCtr := rfl
@[simp] theorem State.setI_cyclesPerTick (n : Nat) : (s.setI n).cyclesPerTick = s.cyclesPerTick := rfl
@[simp] theorem State.setI_font (n : Nat) : (s.setI n).font = s.font := rfl
@[simp] theorem State.setI_mode (n : Nat) : (s.setI n).mode = s.mode := rfl
@[simp] theorem State.setI_err (n : Nat) : (s.setI n).err = s.err := rfl
@[simp] theorem State.setI_errOp (n : Nat) : (s.setI n).errOp = s.errOp := rfl
@[simp] theorem State.setI_mem (n : Nat) : (s.setI n).mem = s.mem := rfl
@[simp] theorem State.setI_fb (n : Nat) : (s.setI n).fb = s.fb := rfl
@[simp] theorem State.setI_keys (n : Nat) : (s.setI n).keys = s.keys := rfl
@[simp] theorem State.setI_rndCtr (n : Nat) : (s.setI n).rndCtr = s.rndCtr := rfl
@[simp] theorem State.setI_redraw (n : Nat) : (s.setI n).redraw = s.redraw := rfl
@[simp] theorem State.setI_soundExpiry (n : Nat) : (s.setI n).soundExpiry = s.soundExpiry := rfl
@[simp] theorem State.setI_faultOut (n : Nat) : (s.setI n).faultOut = s.faultOut := rfl

@[simp] theorem State.setDt_v (b : Byte) : (s.setDt b).v = s.v := rfl
@[simp] theorem State.setDt_pc (b : Byte) : (s.setDt b).pc = s.pc := rfl
@[simp] theorem State.setDt_i (b : Byte) : (s.setDt b).i = s.i := rfl
@[simp] theorem State.setDt_stack (b : Byte) : (s.setDt b).stack = s.stack := rfl
@[simp] theorem State.setDt_sp (b : Byte) : (s.setDt b).sp = s.sp := rfl
@[simp] theorem State.setDt_dt (b : Byte) : (s.setDt b).dt = b := rfl
@[simp] theorem State.setDt_st (b : Byte) : (s.setDt b).st = s.st := rfl
@[simp] theorem State.setDt_qShiftY (b : Byte) : (s.setDt b).qShiftY = s.qShiftY := rfl
@[simp] theorem State.setDt_qIncI (b : Byte) : (s.setDt b).qIncI = s.qIncI := rfl
@[simp] theorem State.setDt_tickCtr (b : Byte) : (s.setDt b).tickCtr = s.tickCtr := rfl
@[simp] theorem State.setDt_cyclesPerTick (b : Byte) : (s.setDt b).cyclesPerTick = s.cyclesPerTick := rfl
@[simp] theorem State.setDt_font (b : Byte) : (s.setDt b).font = s.font := rfl
@[simp] theorem State.setDt_mode (b : Byte) : (s.setDt b).mode = s.mode := rfl
@[simp] theorem State.setDt_err (b : Byte) : (s.setDt b).err = s.err := rfl
@[simp] theorem State.setDt_errOp (b : Byte) : (s.setDt b).errOp = s.errOp := rfl
@[simp] theorem State.setDt_mem (b : Byte) : (s.setDt b).mem = s.mem := rfl
@[simp] theorem State.setDt_fb (b : Byte) : (s.setDt b).fb = s.fb := rfl
@[simp] theorem State.setDt_keys (b : Byte) : (s.setDt b).keys = s.keys := rfl
@[simp] theorem State.setDt_rndCtr (b : Byte) : (s.setDt b).rndCtr = s.rndCtr := rfl
@[simp] theorem State.setDt_redraw (b : Byte) : (s.setDt b).redraw = s.redraw := rfl
@[simp] theorem State.setDt_soundExpiry (b : Byte) : (s.setDt b).soundExpiry = s.soundExpiry := rfl
@[simp] theorem State.setDt_faultOut (b : Byte) : (s.setDt b).faultOut = s.faultOut := rfl

@[simp] theorem State.setSt_v (b : Byte) : (s.setSt b).v = s.v := rfl
@[simp] theorem State.setSt_pc (b : Byte) : (s.setSt b).pc = s.pc := rfl
@[simp] theorem State.setSt_i (b : Byte) : (s.setSt b).i = s.i := rfl
@[simp] theorem State.setSt_stack (b : Byte) : (s.setSt b).stack = s.stack := rfl
@[simp] theorem State.setSt_sp (b : Byte) : (s.setSt b).sp = s.sp := rfl
@[simp] theorem State.setSt_dt (b : Byte) : (s.setSt b).dt = s.dt := rfl
@[simp] theorem State.setSt_st (b : Byte) : (s.setSt b).st = b := rfl
@[simp] theorem State.setSt_qShiftY (b : Byte) : (s.setSt b).qShiftY = s.qShiftY := rfl
@[simp] theorem State.setSt_qIncI (b : Byte) : (s.setSt b).qIncI = s.qIncI := rfl
@[simp] theorem State.setSt_tickCtr (b : Byte) : (s.setSt b).tickCtr = s.tickCtr := rfl
@[simp] theorem State.setSt_cyclesPerTick (b : Byte) : (s.setSt b).cyclesPerTick = s.cyclesPerTick := rfl
@[simp] theorem State.setSt_font (b : Byte) : (s.setSt b).font = s.font := rfl
@[simp] theorem State.setSt_mode (b : Byte) : (s.setSt b).mode = s.mode := rfl
@[simp] theorem State.setSt_err (b : Byte) : (s.setSt b).err = s.err := rfl
@[simp] theorem State.setSt_errOp (b : Byte) : (s.setSt b).errOp = s.errOp := rfl
@[simp] theorem State.setSt_mem (b : Byte) : (s.setSt b).mem = s.mem := rfl
@[simp] theorem State.setSt_fb (b : Byte) : (s.setSt b).fb = s.fb := rfl
@[simp] theorem State.setSt_keys (b : Byte) : (s.setSt b).keys = s.keys := rfl
@[simp] theorem State.setSt_rndCtr (b : Byte) : (s.setSt b).rndCtr = s.rndCtr := rfl
@[simp] theorem State.setSt_redraw (b : Byte) : (s.setSt b).redraw = s.redraw := rfl
@[simp] theorem State.setSt_soundExpiry (b : Byte) : (s.setSt b).soundExpiry = s.soundExpiry := rfl
@[simp] theorem State.setSt_faultOut (b : Byte) : (s.setSt b).faultOut = s.faultOut := rfl

@[simp] theorem State.storeBytes_v (a : Nat) (bs : List Byte) : (s.storeBytes a bs).v = s.v := rfl
@[simp] theorem State.storeBytes_pc (a : Nat) (bs : List Byte) : (s.storeBytes a bs).pc = s.pc := rfl
@[simp] theorem State.storeBytes_i (a : Nat) (bs : List Byte) : (s.storeBytes a bs).i = s.i := rfl
@[simp] theorem State.storeBytes_stack (a : Nat) (bs : List Byte) : (s.storeBytes a bs).stack = s.stack := rfl
@[simp] theorem State.storeBytes_sp (a : Nat) (bs : List Byte) : (s.storeBytes a bs).sp = s.sp := rfl
@[simp] theorem State.storeBytes_dt (a : Nat) (bs : List Byte) : (s.storeBytes a bs).dt = s.dt := rfl
@[simp] theorem State.storeBytes_st (a : Nat) (bs : List Byte) : (s.storeBytes a bs).st = s.st := rfl
@[simp] theorem State.storeBytes_qShiftY (a : Nat) (bs : List Byte) : (s.storeBytes a bs).qShiftY = s.qShiftY := rfl
@[simp] theorem State.storeBytes_qIncI (a : Nat) (bs : List Byte) : (s.storeBytes a bs).qIncI = s.qIncI := rfl
@[simp] theorem State.storeBytes_tickCtr (a : Nat) (bs : List Byte) : (s.storeBytes a bs).tickCtr = s.tickCtr := rfl
@[simp] theorem State.storeBytes_cyclesPerTick (a : Nat) (bs : List Byte) : (s.storeBytes a bs).cyclesPerTick = s.cyclesPerTick := rfl
@[simp] theorem State.storeBytes_font (a : Nat) (bs : List Byte) : (s.storeBytes a bs).font = s.font := rfl
@[simp] theorem State.storeBytes_mode (a : Nat) (bs : List Byte) : (s.storeBytes a bs).mode = s.mode := rfl
@[simp] theorem State.storeBytes_err (a : Nat) (bs : List Byte) : (s.storeBytes a bs).err = s.err := rfl
@[simp] theorem State.storeBytes_errOp (a : Nat) (bs : List Byte) : (s.storeBytes a bs).errOp = s.errOp := rfl
@[simp] theorem State.storeBytes_mem (a : Nat) (bs : List Byte) : (s.storeBytes a bs).mem = Memory.storeBytes s.font s.mem a bs := rfl
@[simp] theorem State.storeBytes_fb (a : Nat) (bs : List Byte) : (s.storeBytes a bs).fb = s.fb := rfl
@[simp] theorem State.storeBytes_keys (a : Nat) (bs : List Byte) : (s.storeBytes a bs).keys = s.keys := rfl
@[simp] theorem State.storeBytes_rndCtr (a : Nat) (bs : List Byte) : (s.storeBytes a bs).rndCtr = s.rndCtr := rfl
@[simp] theorem State.storeBytes_redraw (a : Nat) (bs : List Byte) : (s.storeBytes a bs).redraw = s.redraw := rfl
@[simp] theorem State.storeBytes_soundExpiry (a : Nat) (bs : List Byte) : (s.storeBytes a bs).soundExpiry = s.soundExpiry := rfl
@[simp] theorem State.storeBytes_faultOut (a : Nat) (bs : List Byte) : (s.storeBytes a bs).faultOut = s.faultOut := rfl

@[simp] theorem State.setFb_v (c : Framebuffer) : (s.setFb c).v = s.v := rfl
@[simp] theorem State.setFb_pc (c : Framebuffer) : (s.setFb c).pc = s.pc := rfl
@[simp] theorem State.setFb_i (c : Framebuffer) : (s.setFb c).i = s.i := rfl
@[simp] theorem State.setFb_stack (c : Framebuffer) : (s.setFb c).stack = s.stack := rfl
@[simp] theorem State.setFb_sp (c : Framebuffer) : (s.setFb c).sp = s.sp := rfl
@[simp] theorem State.setFb_dt (c : Framebuffer) : (s.setFb c).dt = s.dt := rfl
@[simp] theorem State.setFb_st (c : Framebuffer) : (s.setFb c).st = s.st := rfl
@[simp] theorem State.setFb_qShiftY (c : Framebuffer) : (s.setFb c).qShiftY = s.qShiftY := rfl
@[simp] theorem State.setFb_qIncI (c : Framebuffer) : (s.setFb c).qIncI = s.qIncI := rfl
@[simp] theorem State.setFb_tickCtr (c : Framebuffer) : (s.setFb c).tickCtr = s.tickCtr := rfl
@[simp] theorem State.setFb_cyclesPerTick (c : Framebuffer) : (s.setFb c).cyclesPerTick = s.cyclesPerTick := rfl
@[simp] theorem State.setFb_font (c : Framebuffer) : (s.setFb c).font = s.font := rfl
@[simp] theorem State.setFb_mode (c : Framebuffer) : (s.setFb c).mode = s.mode := rfl
@[simp] theorem State.setFb_err (c : Framebuffer) : (s.setFb c).err = s.err := rfl
@[simp] theorem State.setFb_errOp (c : Framebuffer) : (s.setFb c).errOp = s.errOp := rfl
@[simp] theorem State.setFb_mem (c : Framebuffer) : (s.setFb c).mem = s.mem := rfl
@[simp] theorem State.setFb_fb (c : Framebuffer) : (s.setFb c).fb = c := rfl
@[simp] theorem State.setFb_keys (c : Framebuffer) : (s.setFb c).keys = s.keys := rfl
@[simp] theorem State.setFb_rndCtr (c : Framebuffer) : (s.setFb c).rndCtr = s.rndCtr := rfl
@[simp] theorem State.setFb_redraw (c : Framebuffer) : (s.setFb c).redraw = true := rfl
@[simp] theorem State.setFb_soundExpiry (c : Framebuffer) : (s.setFb c).soundExpiry = s.soundExpiry := rfl
@[simp] theorem State.setFb_faultOut (c : Framebuffer) : (s.setFb c).faultOut = s.faultOut := rfl

@[simp] theorem State.countDraw_v : (s.countDraw).v = s.v := rfl
@[simp] theorem State.countDraw_pc : (s.countDraw).pc = s.pc := rfl
@[simp] theorem State.countDraw_i : (s.countDraw).i = s.i := rfl
@[simp] theorem State.countDraw_stack : (s.countDraw).stack = s.stack := rfl
@[simp] theorem State.countDraw_sp : (s.countDraw).sp = s.sp := rfl
@[simp] theorem State.countDraw_dt : (s.countDraw).dt = s.dt := rfl
@[simp] theorem State.countDraw_st : (s.countDraw).st = s.st := rfl
@[simp] theorem State.countDraw_qShiftY : (s.countDraw).qShiftY = s.qShiftY := rfl
@[simp] theorem State.countDraw_qIncI : (s.countDraw).qIncI = s.qIncI := rfl
@[simp] theorem State.countDraw_tickCtr : (s.countDraw).tickCtr = s.tickCtr := rfl
@[simp] theorem State.countDraw_cyclesPerTick : (s.countDraw).cyclesPerTick = s.cyclesPerTick := rfl
@[simp] theorem State.countDraw_font : (s.countDraw).font = s.font := rfl
@[simp] theorem State.countDraw_mode : (s.countDraw).mode = s.mode := rfl
@[simp] theorem State.countDraw_err : (s.countDraw).err = s.err := rfl
@[simp] theorem State.countDraw_errOp : (s.countDraw).errOp = s.errOp := rfl
@[simp] theorem State.countDraw_mem : (s.countDraw).mem = s.mem := rfl
@[simp] theorem State.countDraw_fb : (s.countDraw).fb = s.fb := rfl
@[simp] theorem State.countDraw_keys : (s.countDraw).keys = s.keys := rfl
@[simp] theorem State.countDraw_rndCtr : (s.countDraw).rndCtr = s.rndCtr + 1 := rfl
@[simp] theorem State.countDraw_redraw : (s.countDraw).redraw = s.redraw := rfl
@[simp] theorem State.countDraw_soundExpiry : (s.countDraw).soundExpiry = s.soundExpiry := rfl
@[simp] theorem State.countDraw_faultOut : (s.countDraw).faultOut = s.faultOut := rfl

@[simp] theorem State.loadUpTo_v (x : Reg) : (s.loadUpTo x).v = s.loadedRegs x := by unfold State.loadUpTo; rfl
@[simp] theorem State.loadUpTo_pc (x : Reg) : (s.loadUpTo x).pc = s.pc := by unfold State.loadUpTo; rfl
@[simp] theorem State.loadUpTo_i (x : Reg) : (s.loadUpTo x).i = s.i := by unfold State.loadUpTo; rfl
@[simp] theorem State.loadUpTo_stack (x : Reg) : (s.loadUpTo x).stack = s.stack := by unfold State.loadUpTo; rfl
@[simp] theorem State.loadUpTo_sp (x : Reg) : (s.loadUpTo x).sp = s.sp := by unfold State.loadUpTo; rfl
@[simp] theorem State.loadUpTo_dt (x : Reg) : (s.loadUpTo x).dt = s.dt := by unfold State.loadUpTo; rfl
@[simp] theorem State.loadUpTo_st (x : Reg) : (s.loadUpTo x).st = s.st := by unfold State.loadUpTo; rfl
@[simp] theorem State.loadUpTo_qShiftY (x : Reg) : (s.loadUpTo x).qShiftY = s.qShiftY := by unfold State.loadUpTo; rfl
@[simp] theorem State.loadUpTo_qIncI (x : Reg) : (s.loadUpTo x).qIncI = s.qIncI := by unfold State.loadUpTo; rfl
@[simp] theorem State.loadUpTo_tickCtr (x : Reg) : (s.loadUpTo x).tickCtr = s.tickCtr := by unfold State.loadUpTo; rfl
@[simp] theorem State.loadUpTo_cyclesPerTick (x : Reg) : (s.loadUpTo x).cyclesPerTick = s.cyclesPerTick := by unfold State.loadUpTo; rfl
@[simp] theorem State.loadUpTo_font (x : Reg) : (s.loadUpTo x).font = s.font := by unfold State.loadUpTo; rfl
@[simp] theorem State.loadUpTo_mode (x : Reg) : (s.loadUpTo x).mode = s.mode := by unfold State.loadUpTo; rfl
@[simp] theorem State.loadUpTo_err (x : Reg) : (s.loadUpTo x).err = s.err := by unfold State.loadUpTo; rfl
@[simp] theorem State.loadUpTo_errOp (x : Reg) : (s.loadUpTo x).errOp = s.errOp := by unfold State.loadUpTo; rfl
@[simp] theorem State.loadUpTo_mem (x : Reg) : (s.loadUpTo x).mem = s.mem := by unfold State.loadUpTo; rfl
@[simp] theorem State.loadUpTo_fb (x : Reg) : (s.loadUpTo x).fb = s.fb := by unfold State.loadUpTo; rfl
@[simp] theorem State.loadUpTo_keys (x : Reg) : (s.loadUpTo x).keys = s.keys := by unfold State.loadUpTo; rfl
@[simp] theorem State.loadUpTo_rndCtr (x : Reg) : (s.loadUpTo x).rndCtr = s.rndCtr := by unfold State.loadUpTo; rfl
@[simp] theorem State.loadUpTo_redraw (x : Reg) : (s.loadUpTo x).redraw = s.redraw := by unfold State.loadUpTo; rfl
@[simp] theorem State.loadUpTo_soundExpiry (x : Reg) : (s.loadUpTo x).soundExpiry = s.soundExpiry := by unfold State.loadUpTo; rfl
@[simp] theorem State.loadUpTo_faultOut (x : Reg) : (s.loadUpTo x).faultOut = s.faultOut := by unfold State.loadUpTo; rfl

@[simp] theorem State.raiseFatal_v (c : ErrCode) (w : Word) : (s.raiseFatal c w).v = s.v := rfl
@[simp] theorem State.raiseFatal_pc (c : ErrCode) (w : Word) : (s.raiseFatal c w).pc = s.pc := rfl
@[simp] theorem State.raiseFatal_i (c : ErrCode) (w : Word) : (s.raiseFatal c w).i = s.i := rfl
@[simp] theorem State.raiseFatal_stack (c : ErrCode) (w : Word) : (s.raiseFatal c w).stack = s.stack := rfl
@[simp] theorem State.raiseFatal_sp (c : ErrCode) (w : Word) : (s.raiseFatal c w).sp = s.sp := rfl
@[simp] theorem State.raiseFatal_dt (c : ErrCode) (w : Word) : (s.raiseFatal c w).dt = s.dt := rfl
@[simp] theorem State.raiseFatal_st (c : ErrCode) (w : Word) : (s.raiseFatal c w).st = s.st := rfl
@[simp] theorem State.raiseFatal_qShiftY (c : ErrCode) (w : Word) : (s.raiseFatal c w).qShiftY = s.qShiftY := rfl
@[simp] theorem State.raiseFatal_qIncI (c : ErrCode) (w : Word) : (s.raiseFatal c w).qIncI = s.qIncI := rfl
@[simp] theorem State.raiseFatal_tickCtr (c : ErrCode) (w : Word) : (s.raiseFatal c w).tickCtr = s.tickCtr := rfl
@[simp] theorem State.raiseFatal_cyclesPerTick (c : ErrCode) (w : Word) : (s.raiseFatal c w).cyclesPerTick = s.cyclesPerTick := rfl
@[simp] theorem State.raiseFatal_font (c : ErrCode) (w : Word) : (s.raiseFatal c w).font = s.font := rfl
@[simp] theorem State.raiseFatal_mode (c : ErrCode) (w : Word) : (s.raiseFatal c w).mode = .fault := rfl
@[simp] theorem State.raiseFatal_err (c : ErrCode) (w : Word) : (s.raiseFatal c w).err = c := rfl
@[simp] theorem State.raiseFatal_errOp (c : ErrCode) (w : Word) : (s.raiseFatal c w).errOp = w := rfl
@[simp] theorem State.raiseFatal_mem (c : ErrCode) (w : Word) : (s.raiseFatal c w).mem = s.mem := rfl
@[simp] theorem State.raiseFatal_fb (c : ErrCode) (w : Word) : (s.raiseFatal c w).fb = s.fb := rfl
@[simp] theorem State.raiseFatal_keys (c : ErrCode) (w : Word) : (s.raiseFatal c w).keys = s.keys := rfl
@[simp] theorem State.raiseFatal_rndCtr (c : ErrCode) (w : Word) : (s.raiseFatal c w).rndCtr = s.rndCtr := rfl
@[simp] theorem State.raiseFatal_redraw (c : ErrCode) (w : Word) : (s.raiseFatal c w).redraw = false := rfl
@[simp] theorem State.raiseFatal_soundExpiry (c : ErrCode) (w : Word) : (s.raiseFatal c w).soundExpiry = false := rfl
@[simp] theorem State.raiseFatal_faultOut (c : ErrCode) (w : Word) : (s.raiseFatal c w).faultOut = c := rfl

@[simp] theorem State.beginStep_v : (s.beginStep).v = s.v := rfl
@[simp] theorem State.beginStep_pc : (s.beginStep).pc = s.pc := rfl
@[simp] theorem State.beginStep_i : (s.beginStep).i = s.i := rfl
@[simp] theorem State.beginStep_stack : (s.beginStep).stack = s.stack := rfl
@[simp] theorem State.beginStep_sp : (s.beginStep).sp = s.sp := rfl
@[simp] theorem State.beginStep_dt : (s.beginStep).dt = s.dt := rfl
@[simp] theorem State.beginStep_st : (s.beginStep).st = s.st := rfl
@[simp] theorem State.beginStep_qShiftY : (s.beginStep).qShiftY = s.qShiftY := rfl
@[simp] theorem State.beginStep_qIncI : (s.beginStep).qIncI = s.qIncI := rfl
@[simp] theorem State.beginStep_tickCtr : (s.beginStep).tickCtr = s.tickCtr := rfl
@[simp] theorem State.beginStep_cyclesPerTick : (s.beginStep).cyclesPerTick = s.cyclesPerTick := rfl
@[simp] theorem State.beginStep_font : (s.beginStep).font = s.font := rfl
@[simp] theorem State.beginStep_mode : (s.beginStep).mode = s.mode := rfl
@[simp] theorem State.beginStep_err : (s.beginStep).err = s.err := rfl
@[simp] theorem State.beginStep_errOp : (s.beginStep).errOp = s.errOp := rfl
@[simp] theorem State.beginStep_mem : (s.beginStep).mem = s.mem := rfl
@[simp] theorem State.beginStep_fb : (s.beginStep).fb = s.fb := rfl
@[simp] theorem State.beginStep_keys : (s.beginStep).keys = s.keys := rfl
@[simp] theorem State.beginStep_rndCtr : (s.beginStep).rndCtr = s.rndCtr := rfl
@[simp] theorem State.beginStep_redraw : (s.beginStep).redraw = false := rfl
@[simp] theorem State.beginStep_soundExpiry : (s.beginStep).soundExpiry = false := rfl
@[simp] theorem State.beginStep_faultOut : (s.beginStep).faultOut = .none := rfl

@[simp] theorem State.inertStep_v : (s.inertStep).v = s.v := rfl
@[simp] theorem State.inertStep_pc : (s.inertStep).pc = s.pc := rfl
@[simp] theorem State.inertStep_i : (s.inertStep).i = s.i := rfl
@[simp] theorem State.inertStep_stack : (s.inertStep).stack = s.stack := rfl
@[simp] theorem State.inertStep_sp : (s.inertStep).sp = s.sp := rfl
@[simp] theorem State.inertStep_dt : (s.inertStep).dt = s.dt := rfl
@[simp] theorem State.inertStep_st : (s.inertStep).st = s.st := rfl
@[simp] theorem State.inertStep_qShiftY : (s.inertStep).qShiftY = s.qShiftY := rfl
@[simp] theorem State.inertStep_qIncI : (s.inertStep).qIncI = s.qIncI := rfl
@[simp] theorem State.inertStep_tickCtr : (s.inertStep).tickCtr = s.tickCtr := rfl
@[simp] theorem State.inertStep_cyclesPerTick : (s.inertStep).cyclesPerTick = s.cyclesPerTick := rfl
@[simp] theorem State.inertStep_font : (s.inertStep).font = s.font := rfl
@[simp] theorem State.inertStep_mode : (s.inertStep).mode = s.mode := rfl
@[simp] theorem State.inertStep_err : (s.inertStep).err = s.err := rfl
@[simp] theorem State.inertStep_errOp : (s.inertStep).errOp = s.errOp := rfl
@[simp] theorem State.inertStep_mem : (s.inertStep).mem = s.mem := rfl
@[simp] theorem State.inertStep_fb : (s.inertStep).fb = s.fb := rfl
@[simp] theorem State.inertStep_keys : (s.inertStep).keys = s.keys := rfl
@[simp] theorem State.inertStep_rndCtr : (s.inertStep).rndCtr = s.rndCtr := rfl
@[simp] theorem State.inertStep_redraw : (s.inertStep).redraw = false := rfl
@[simp] theorem State.inertStep_soundExpiry : (s.inertStep).soundExpiry = false := rfl
@[simp] theorem State.inertStep_faultOut : (s.inertStep).faultOut = s.err := rfl

@[simp] theorem State.tick_v : (s.tick).v = s.v := rfl
@[simp] theorem State.tick_pc : (s.tick).pc = s.pc := rfl
@[simp] theorem State.tick_i : (s.tick).i = s.i := rfl
@[simp] theorem State.tick_stack : (s.tick).stack = s.stack := rfl
@[simp] theorem State.tick_sp : (s.tick).sp = s.sp := rfl
@[simp] theorem State.tick_dt : (s.tick).dt = countDown s.dt := rfl
@[simp] theorem State.tick_st : (s.tick).st = countDown s.st := rfl
@[simp] theorem State.tick_qShiftY : (s.tick).qShiftY = s.qShiftY := rfl
@[simp] theorem State.tick_qIncI : (s.tick).qIncI = s.qIncI := rfl
@[simp] theorem State.tick_tickCtr : (s.tick).tickCtr = 0 := rfl
@[simp] theorem State.tick_cyclesPerTick : (s.tick).cyclesPerTick = s.cyclesPerTick := rfl
@[simp] theorem State.tick_font : (s.tick).font = s.font := rfl
@[simp] theorem State.tick_mode : (s.tick).mode = s.mode := rfl
@[simp] theorem State.tick_err : (s.tick).err = s.err := rfl
@[simp] theorem State.tick_errOp : (s.tick).errOp = s.errOp := rfl
@[simp] theorem State.tick_mem : (s.tick).mem = s.mem := rfl
@[simp] theorem State.tick_fb : (s.tick).fb = s.fb := rfl
@[simp] theorem State.tick_keys : (s.tick).keys = s.keys := rfl
@[simp] theorem State.tick_rndCtr : (s.tick).rndCtr = s.rndCtr := rfl
@[simp] theorem State.tick_redraw : (s.tick).redraw = s.redraw := rfl
@[simp] theorem State.tick_soundExpiry : (s.tick).soundExpiry = (s.soundExpiry || decide (s.st = 1)) := rfl
@[simp] theorem State.tick_faultOut : (s.tick).faultOut = s.faultOut := rfl

@[simp] theorem State.advance_eq (n : Nat) : s.advance n = s.setPc (s.pc.toNat + n) := rfl
@[simp] theorem State.skipIf_eq (c : Bool) : s.skipIf c = s.setPc (s.pc.toNat + if c then 4 else 2) := rfl
@[simp] theorem State.setFlag_eq (b : Bool) : s.setFlag b = s.setReg vF (flagByte b) := rfl
@[simp] theorem State.setResultFlag_eq (x : Reg) (r : Byte × Bool) :
    s.setResultFlag x r = (s.setReg x r.1).setReg vF (flagByte r.2) := rfl

@[simp] theorem State.setReg_memRead (x : Reg) (b : Byte) (k : Nat) : (s.setReg x b).memRead k = s.memRead k := rfl
@[simp] theorem State.setReg_key (x : Reg) (b : Byte) (k : Reg) : (s.setReg x b).key k = s.key k := rfl
@[simp] theorem State.setPc_reg (n : Nat) (r : Reg) : (s.setPc n).reg r = s.reg r := rfl
@[simp] theorem State.setPc_memRead (n : Nat) (k : Nat) : (s.setPc n).memRead k = s.memRead k := rfl
@[simp] theorem State.setPc_key (n : Nat) (k : Reg) : (s.setPc n).key k = s.key k := rfl
@[simp] theorem State.setI_reg (n : Nat) (r : Reg) : (s.setI n).reg r = s.reg r := rfl
@[simp] theorem State.setI_memRead (n : Nat) (k : Nat) : (s.setI n).memRead k = s.memRead k := rfl
@[simp] theorem State.setI_key (n : Nat) (k : Reg) : (s.setI n).key k = s.key k := rfl
@[simp] theorem State.setDt_reg (b : Byte) (r : Reg) : (s.setDt b).reg r = s.reg r := rfl
@[simp] theorem State.setDt_memRead (b : Byte) (k : Nat) : (s.setDt b).memRead k = s.memRead k := rfl
@[simp] theorem State.setDt_key (b : Byte) (k : Reg) : (s.setDt b).key k = s.key k := rfl
@[simp] theorem State.setSt_reg (b : Byte) (r : Reg) : (s.setSt b).reg r = s.reg r := rfl
@[simp] theorem State.setSt_memRead (b : Byte) (k : Nat) : (s.setSt b).memRead k = s.memRead k := rfl
@[simp] theorem State.setSt_key (b : Byte) (k : Reg) : (s.setSt b).key k = s.key k := rfl
@[simp] theorem State.storeBytes_reg (a : Nat) (bs : List Byte) (r : Reg) : (s.storeBytes a bs).reg r = s.reg r := rfl
@[simp] theorem State.storeBytes_key (a : Nat) (bs : List Byte) (k : Reg) : (s.storeBytes a bs).key k = s.key k := rfl
@[simp] theorem State.setFb_reg (c : Framebuffer) (r : Reg) : (s.setFb c).reg r = s.reg r := rfl
@[simp] theorem State.setFb_memRead (c : Framebuffer) (k : Nat) : (s.setFb c).memRead k = s.memRead k := rfl
@[simp] theorem State.setFb_key (c : Framebuffer) (k : Reg) : (s.setFb c).key k = s.key k := rfl
@[simp] theorem State.countDraw_reg (r : Reg) : (s.countDraw).reg r = s.reg r := rfl
@[simp] theorem State.countDraw_memRead (k : Nat) : (s.countDraw).memRead k = s.memRead k := rfl
@[simp] theorem State.countDraw_key (k : Reg) : (s.countDraw).key k = s.key k := rfl
@[simp] theorem State.loadUpTo_memRead (x : Reg) (k : Nat) : (s.loadUpTo x).memRead k = s.memRead k := by unfold State.loadUpTo; rfl
@[simp] theorem State.loadUpTo_key (x : Reg) (k : Reg) : (s.loadUpTo x).key k = s.key k := by unfold State.loadUpTo; rfl
@[simp] theorem State.raiseFatal_reg (c : ErrCode) (w : Word) (r : Reg) : (s.raiseFatal c w).reg r = s.reg r := rfl
@[simp] theorem State.raiseFatal_memRead (c : ErrCode) (w : Word) (k : Nat) : (s.raiseFatal c w).memRead k = s.memRead k := rfl
@[simp] theorem State.raiseFatal_key (c : ErrCode) (w : Word) (k : Reg) : (s.raiseFatal c w).key k = s.key k := rfl
@[simp] theorem State.beginStep_reg (r : Reg) : (s.beginStep).reg r = s.reg r := rfl
@[simp] theorem State.beginStep_memRead (k : Nat) : (s.beginStep).memRead k = s.memRead k := rfl
@[simp] theorem State.beginStep_key (k : Reg) : (s.beginStep).key k = s.key k := rfl
@[simp] theorem State.inertStep_reg (r : Reg) : (s.inertStep).reg r = s.reg r := rfl
@[simp] theorem State.inertStep_memRead (k : Nat) : (s.inertStep).memRead k = s.memRead k := rfl
@[simp] theorem State.inertStep_key (k : Reg) : (s.inertStep).key k = s.key k := rfl
@[simp] theorem State.tick_reg (r : Reg) : (s.tick).reg r = s.reg r := rfl
@[simp] theorem State.tick_memRead (k : Nat) : (s.tick).memRead k = s.memRead k := rfl
@[simp] theorem State.tick_key (k : Reg) : (s.tick).key k = s.key k := rfl

/-- A register write is seen in that register alone (R20). -/
@[simp] theorem State.reg_setReg (x r : Reg) (b : Byte) : (s.setReg x b).reg r = if x = r then b else s.reg r := by
  simp only [State.reg, State.setReg, Vector.getElem_set, Fin.ext_iff]

/-- The block load's registers: V0..VX from memory, the rest as before (R155). -/
@[simp] theorem State.reg_loadUpTo (x r : Reg) :
    (s.loadUpTo x).reg r = if r ≤ x then s.memRead (s.i.toNat + r.val) else s.reg r := by
  simp only [State.reg, State.loadUpTo, State.loadedRegs, Vector.getElem_ofFn]

/-- The quirk increment touches I alone. -/
theorem State.bumpI_eq (x : Reg) : s.bumpI x = { s with i := (s.bumpI x).i } := by
  unfold State.bumpI; split <;> rfl

/-- The end of a step touches the Timer Driver's state and the sound output alone. -/
theorem State.endStep_eq :
    s.endStep = { s with tickCtr := s.endStep.tickCtr, dt := s.endStep.dt, st := s.endStep.st, soundExpiry := s.endStep.soundExpiry } := by
  unfold State.endStep State.timerDriver; split
  · split <;> rfl
  · rfl

@[simp] theorem State.bumpI_v (x : Reg) : (s.bumpI x).v = s.v := by rw [State.bumpI_eq]
@[simp] theorem State.bumpI_pc (x : Reg) : (s.bumpI x).pc = s.pc := by rw [State.bumpI_eq]
@[simp] theorem State.bumpI_stack (x : Reg) : (s.bumpI x).stack = s.stack := by rw [State.bumpI_eq]
@[simp] theorem State.bumpI_sp (x : Reg) : (s.bumpI x).sp = s.sp := by rw [State.bumpI_eq]
@[simp] theorem State.bumpI_dt (x : Reg) : (s.bumpI x).dt = s.dt := by rw [State.bumpI_eq]
@[simp] theorem State.bumpI_st (x : Reg) : (s.bumpI x).st = s.st := by rw [State.bumpI_eq]
@[simp] theorem State.bumpI_qShiftY (x : Reg) : (s.bumpI x).qShiftY = s.qShiftY := by rw [State.bumpI_eq]
@[simp] theorem State.bumpI_qIncI (x : Reg) : (s.bumpI x).qIncI = s.qIncI := by rw [State.bumpI_eq]
@[simp] theorem State.bumpI_tickCtr (x : Reg) : (s.bumpI x).tickCtr = s.tickCtr := by rw [State.bumpI_eq]
@[simp] theorem State.bumpI_cyclesPerTick (x : Reg) : (s.bumpI x).cyclesPerTick = s.cyclesPerTick := by rw [State.bumpI_eq]
@[simp] theorem State.bumpI_font (x : Reg) : (s.bumpI x).font = s.font := by rw [State.bumpI_eq]
@[simp] theorem State.bumpI_mode (x : Reg) : (s.bumpI x).mode = s.mode := by rw [State.bumpI_eq]
@[simp] theorem State.bumpI_err (x : Reg) : (s.bumpI x).err = s.err := by rw [State.bumpI_eq]
@[simp] theorem State.bumpI_errOp (x : Reg) : (s.bumpI x).errOp = s.errOp := by rw [State.bumpI_eq]
@[simp] theorem State.bumpI_mem (x : Reg) : (s.bumpI x).mem = s.mem := by rw [State.bumpI_eq]
@[simp] theorem State.bumpI_fb (x : Reg) : (s.bumpI x).fb = s.fb := by rw [State.bumpI_eq]
@[simp] theorem State.bumpI_keys (x : Reg) : (s.bumpI x).keys = s.keys := by rw [State.bumpI_eq]
@[simp] theorem State.bumpI_rndCtr (x : Reg) : (s.bumpI x).rndCtr = s.rndCtr := by rw [State.bumpI_eq]
@[simp] theorem State.bumpI_redraw (x : Reg) : (s.bumpI x).redraw = s.redraw := by rw [State.bumpI_eq]
@[simp] theorem State.bumpI_soundExpiry (x : Reg) : (s.bumpI x).soundExpiry = s.soundExpiry := by rw [State.bumpI_eq]
@[simp] theorem State.bumpI_faultOut (x : Reg) : (s.bumpI x).faultOut = s.faultOut := by rw [State.bumpI_eq]
@[simp] theorem State.bumpI_reg (x r : Reg) : (s.bumpI x).reg r = s.reg r := by rw [State.bumpI_eq]; rfl
@[simp] theorem State.bumpI_memRead (x : Reg) (k : Nat) : (s.bumpI x).memRead k = s.memRead k := by rw [State.bumpI_eq]; rfl

@[simp] theorem State.endStep_v : s.endStep.v = s.v := by rw [State.endStep_eq]
@[simp] theorem State.endStep_pc : s.endStep.pc = s.pc := by rw [State.endStep_eq]
@[simp] theorem State.endStep_i : s.endStep.i = s.i := by rw [State.endStep_eq]
@[simp] theorem State.endStep_stack : s.endStep.stack = s.stack := by rw [State.endStep_eq]
@[simp] theorem State.endStep_sp : s.endStep.sp = s.sp := by rw [State.endStep_eq]
@[simp] theorem State.endStep_qShiftY : s.endStep.qShiftY = s.qShiftY := by rw [State.endStep_eq]
@[simp] theorem State.endStep_qIncI : s.endStep.qIncI = s.qIncI := by rw [State.endStep_eq]
@[simp] theorem State.endStep_cyclesPerTick : s.endStep.cyclesPerTick = s.cyclesPerTick := by rw [State.endStep_eq]
@[simp] theorem State.endStep_font : s.endStep.font = s.font := by rw [State.endStep_eq]
@[simp] theorem State.endStep_mode : s.endStep.mode = s.mode := by rw [State.endStep_eq]
@[simp] theorem State.endStep_err : s.endStep.err = s.err := by rw [State.endStep_eq]
@[simp] theorem State.endStep_errOp : s.endStep.errOp = s.errOp := by rw [State.endStep_eq]
@[simp] theorem State.endStep_mem : s.endStep.mem = s.mem := by rw [State.endStep_eq]
@[simp] theorem State.endStep_fb : s.endStep.fb = s.fb := by rw [State.endStep_eq]
@[simp] theorem State.endStep_keys : s.endStep.keys = s.keys := by rw [State.endStep_eq]
@[simp] theorem State.endStep_rndCtr : s.endStep.rndCtr = s.rndCtr := by rw [State.endStep_eq]
@[simp] theorem State.endStep_redraw : s.endStep.redraw = s.redraw := by rw [State.endStep_eq]
@[simp] theorem State.endStep_faultOut : s.endStep.faultOut = s.faultOut := by rw [State.endStep_eq]

end Sys2Proof.Machine
end

