-- ==== Sys2Proof/Laws/Display.lean ====
section
/-! SUPPORT. The framebuffer and the sprite: what a pixel write does, and what drawing a sprite does to
every pixel and to the collision flag (spec/10_state.md R32; spec/45_random_display.md R167, R168). -/

namespace Sys2Proof.Machine

/-- A pixel write is seen at that pixel alone, coordinates taken modulo 64 and 32 (R32). -/
theorem fbRead_fbWrite (fb : Framebuffer) (x y px py : Nat) (b : Bool) :
    fbRead (fbWrite fb x y b) px py = if x % 64 = px % 64 ∧ y % 32 = py % 32 then b else fbRead fb px py := by
  unfold fbRead fbWrite
  simp only [Vector.getElem_set]
  by_cases hy : y % 32 = py % 32
  · simp only [hy, if_true, Vector.getElem_set, and_true]
  · simp [hy]

/-- Two framebuffers whose pixels agree are equal. -/
theorem Framebuffer.ext_read {f g : Framebuffer} (h : ∀ x y, fbRead f x y = fbRead g x y) : f = g := by
  apply Vector.ext
  intro y hy
  apply Vector.ext
  intro x hx
  have := h x y
  simpa only [fbRead, Nat.mod_eq_of_lt hx, Nat.mod_eq_of_lt hy] using this

/-- A pixel depends on its coordinates modulo 64 and 32 alone (R32). -/
theorem fbRead_congr (fb : Framebuffer) {x y x' y' : Nat} (hx : x % 64 = x' % 64) (hy : y % 32 = y' % 32) :
    fbRead fb x y = fbRead fb x' y' := by
  simp only [fbRead, hx, hy]

/-- Every pixel of the blank framebuffer is 0 (R166). -/
@[simp] theorem fbRead_blank (x y : Nat) : fbRead Framebuffer.blank x y = false := by
  simp [fbRead, Framebuffer.blank]

/-- Column `col` of the row byte `b`, drawn at `(x, y)`, is a set bit that lands on `(px, py)` (R167). -/
abbrev Hits (b : Byte) (x y px py col : Nat) : Prop :=
  b.getLsbD (7 - col) = true ∧ (x + col) % 64 = px % 64 ∧ y % 32 = py % 32

/-- What drawing some columns of one row does: the pixels hit are inverted, the others stay, and the
collision flag is raised iff a pixel hit was 1 (R168). -/
theorem drawColumns_spec (b : Byte) (x y : Nat) (cols : List Nat) : ∀ (c : Canvas), cols.Nodup → (∀ k ∈ cols, k < 8) →
    (∀ px py, (∃ k ∈ cols, Hits b x y px py k) → fbRead (drawColumns b x y c cols).fb px py = !fbRead c.fb px py) ∧
    (∀ px py, (¬∃ k ∈ cols, Hits b x y px py k) → fbRead (drawColumns b x y c cols).fb px py = fbRead c.fb px py) ∧
    ((drawColumns b x y c cols).coll = true ↔
      c.coll = true ∨ ∃ px py, (∃ k ∈ cols, Hits b x y px py k) ∧ fbRead c.fb px py = true) := by
  induction cols with
  | nil => simp [drawColumns]
  | cons k ks ih =>
    intro c hn h8
    obtain ⟨hk, hn⟩ := List.nodup_cons.1 hn
    have hk8 := h8 k (by simp)
    have h8 : ∀ j ∈ ks, j < 8 := fun j hj => h8 j (by simp [hj])
    have apart : ∀ j ∈ ks, (x + j) % 64 ≠ (x + k) % 64 := by
      intro j hj e
      have := h8 j hj
      have : j ≠ k := fun e => hk (e ▸ hj)
      omega
    have once : ∀ px py, Hits b x y px py k → ¬∃ j ∈ ks, Hits b x y px py j :=
      fun px py ⟨_, e, _⟩ ⟨j, hj, _, e', _⟩ => apart j hj (e'.trans e.symm)
    by_cases hb : b.getLsbD (7 - k) = true
    · obtain ⟨ih1, ih2, ih3⟩ := ih (flipPixel c (x + k) y) hn h8
      have flip : ∀ px py, fbRead (flipPixel c (x + k) y).fb px py =
          if Hits b x y px py k then !fbRead c.fb px py else fbRead c.fb px py := by
        intro px py
        simp only [flipPixel, fbRead_fbWrite, Hits, hb, true_and]
        split
        · next e => rw [fbRead_congr c.fb e.1 e.2]
        · rfl
      simp only [drawColumns, hb, if_true]
      refine ⟨fun px py h => ?_, fun px py h => ?_, ?_⟩
      · by_cases hh : Hits b x y px py k
        · rw [ih2 px py (once px py hh), flip, if_pos hh]
        · have : ∃ j ∈ ks, Hits b x y px py j := by
            obtain ⟨j, hj, e⟩ := h
            rcases List.mem_cons.1 hj with rfl | hj
            · exact absurd e hh
            · exact ⟨j, hj, e⟩
          rw [ih1 px py this, flip, if_neg hh]
      · have hh : ¬Hits b x y px py k := fun e => h ⟨k, by simp, e⟩
        rw [ih2 px py fun ⟨j, hj, e⟩ => h ⟨j, by simp [hj], e⟩, flip, if_neg hh]
      · rw [ih3]
        have self : Hits b x y (x + k) y k := ⟨hb, rfl, rfl⟩
        have coll : (flipPixel c (x + k) y).coll = true ↔ c.coll = true ∨ fbRead c.fb (x + k) y = true := by
          simp [flipPixel]
        rw [coll]
        constructor
        · rintro ((h | h) | ⟨px, py, ⟨j, hj, e⟩, h⟩)
          · exact .inl h
          · exact .inr ⟨_, _, ⟨k, by simp, self⟩, h⟩
          · refine .inr ⟨px, py, ⟨j, by simp [hj], e⟩, ?_⟩
            rwa [flip, if_neg fun e' => once px py e' ⟨j, hj, e⟩] at h
        · rintro (h | ⟨px, py, ⟨j, hj, e⟩, h⟩)
          · exact .inl (.inl h)
          · rcases List.mem_cons.1 hj with rfl | hj
            · exact .inl (.inr (by rwa [fbRead_congr c.fb e.2.1 e.2.2]))
            · refine .inr ⟨px, py, ⟨j, hj, e⟩, ?_⟩
              rwa [flip, if_neg fun e' => once px py e' ⟨j, hj, e⟩]
    · have skip : ∀ px py, (∃ j ∈ k :: ks, Hits b x y px py j) ↔ ∃ j ∈ ks, Hits b x y px py j := by
        intro px py
        constructor
        · rintro ⟨j, hj, e⟩
          rcases List.mem_cons.1 hj with rfl | hj
          · exact absurd e.1 hb
          · exact ⟨j, hj, e⟩
        · exact fun ⟨j, hj, e⟩ => ⟨j, by simp [hj], e⟩
      simp only [drawColumns, hb, skip]
      exact ih c hn h8

/-- A sprite's covered pixels are those its first row hits and those the rows below cover (R167). -/
theorem covers_cons (b : Byte) (bs : List Byte) (x y px py : Nat) :
    Covers (b :: bs) x y px py ↔ (∃ k ∈ List.range 8, Hits b x y px py k) ∨ Covers bs x (y + 1) px py := by
  constructor
  · rintro ⟨row, h, col, hc, hb, hx, hy⟩
    cases row with
    | zero => exact .inl ⟨col, by simpa using hc, hb, hx, by simpa using hy⟩
    | succ row => exact .inr ⟨row, by simpa using h, col, hc, hb, hx, by rw [← hy]; congr 1; omega⟩
  · rintro (⟨col, hc, hb, hx, hy⟩ | ⟨row, h, col, hc, hb, hx, hy⟩)
    · exact ⟨0, by simp, col, by simpa using hc, hb, hx, by simpa using hy⟩
    · exact ⟨row + 1, by simpa using h, col, hc, hb, hx, by rw [← hy]; congr 1; omega⟩

/-- What drawing a sprite of at most 32 rows does (R168): covered pixels are inverted, the others stay, and
the collision flag is raised iff a covered pixel was 1. -/
theorem drawRows_spec (x : Nat) (bs : List Byte) : ∀ (c : Canvas) (y : Nat), bs.length ≤ 32 →
    (∀ px py, Covers bs x y px py → fbRead (drawRows x c y bs).fb px py = !fbRead c.fb px py) ∧
    (∀ px py, ¬Covers bs x y px py → fbRead (drawRows x c y bs).fb px py = fbRead c.fb px py) ∧
    ((drawRows x c y bs).coll = true ↔
      c.coll = true ∨ ∃ px py, Covers bs x y px py ∧ fbRead c.fb px py = true) := by
  induction bs with
  | nil => simp [drawRows, Covers]
  | cons b bs ih =>
    intro c y hl
    simp only [List.length_cons] at hl
    obtain ⟨d1, d2, d3⟩ := drawColumns_spec b x y (List.range 8) c List.nodup_range (by simp)
    obtain ⟨ih1, ih2, ih3⟩ := ih (drawColumns b x y c (List.range 8)) (y + 1) (by omega)
    have once : ∀ px py, (∃ k ∈ List.range 8, Hits b x y px py k) → ¬Covers bs x (y + 1) px py := by
      rintro px py ⟨k, -, -, -, e⟩ ⟨row, h, -, -, -, -, e'⟩
      omega
    simp only [drawRows, covers_cons]
    refine ⟨fun px py h => ?_, fun px py h => ?_, ?_⟩
    · rcases h with h | h
      · rw [ih2 px py (once px py h), d1 px py h]
      · rw [ih1 px py h, d2 px py fun h' => once px py h' h]
    · rw [ih2 px py fun h' => h (.inr h'), d2 px py fun h' => h (.inl h')]
    · rw [ih3, d3]
      constructor
      · rintro ((h | ⟨px, py, h, e⟩) | ⟨px, py, h, e⟩)
        · exact .inl h
        · exact .inr ⟨px, py, .inl h, e⟩
        · exact .inr ⟨px, py, .inr h, by rwa [d2 px py fun h' => once px py h' h] at e⟩
      · rintro (h | ⟨px, py, h | h, e⟩)
        · exact .inl (.inl h)
        · exact .inl (.inr ⟨px, py, h, e⟩)
        · exact .inr ⟨px, py, h, by rwa [d2 px py fun h' => once px py h' h]⟩

/-- A sprite has at most 15 rows (R167). -/
@[simp] theorem State.sprite_length (s : State) (n : Nibble) : (s.sprite n).length = n.toNat := by
  simp [State.sprite]

end Sys2Proof.Machine
end

