-- ==== Sys2Proof/Laws/Memory.lean ====
section
/-! SUPPORT. Memory: what a read gives after a write, what a run of stores does, and that every memory
operation keeps the canonical form (spec/20_memory.md R50 to R54). -/

namespace Sys2Proof.Machine

variable {font : FontTable}

/-- The reset contents: the font table at 0 to 79, 0 elsewhere (R37). -/
theorem resetByte_glyph (k : Fin 80) : resetByte font k.val = font[k.val] := dif_pos k.isLt

theorem resetByte_above {a : Nat} (h : 80 ≤ a) : resetByte font a = 0 := dif_neg (Nat.not_lt.2 h)

theorem Memory.read_filter_ne (m : Memory) (a k : Nat) (h : k ≠ a) :
    Memory.read font (m.filter fun c => c.1 != a) k = Memory.read font m k := by
  induction m with
  | nil => rfl
  | cons c rest ih =>
    by_cases hc : c.1 = a
    · have hk : c.1 ≠ k := fun e => h (e ▸ hc)
      simp [Memory.read, hc, ih, show a ≠ k from fun e => h e.symm]
    · simp [Memory.read, hc, ih]

theorem Memory.read_filter_self (m : Memory) (a : Nat) :
    Memory.read font (m.filter fun c => c.1 != a) a = resetByte font a := by
  induction m with
  | nil => rfl
  | cons c rest ih =>
    by_cases hc : c.1 = a
    · simpa [hc] using ih
    · simpa [Memory.read, hc] using ih

theorem Memory.read_insert (m : Memory) (a k : Nat) (b : Byte) (h : ∀ c ∈ m, c.1 ≠ a) :
    Memory.read font (Memory.insert m a b) k = if a = k then b else Memory.read font m k := by
  induction m with
  | nil => rfl
  | cons c rest ih =>
    have hc := h c (by simp)
    have ih := ih fun d hd => h d (by simp [hd])
    simp only [Memory.insert]
    split
    · simp only [Memory.read, ih]
      split
      · next e => simp [show a ≠ k from fun e' => hc (e.trans e'.symm)]
      · rfl
    · rfl

/-- A read after a write gives the byte written, and every other address reads as before. -/
theorem Memory.read_write (m : Memory) (a k : Nat) (b : Byte) :
    Memory.read font (Memory.write font m a b) k = if a = k then b else Memory.read font m k := by
  unfold Memory.write
  dsimp only
  split
  · next hb =>
    split
    · next e => subst e; rw [Memory.read_filter_self, hb]
    · next e => exact Memory.read_filter_ne m a k fun e' => e e'.symm
  · rw [Memory.read_insert _ _ _ _ (by simp)]
    split
    · rfl
    · next e => exact Memory.read_filter_ne m a k fun e' => e e'.symm

theorem Memory.mem_insert {m : Memory} {a : Nat} {b : Byte} {c : Host.Cell} :
    c ∈ Memory.insert m a b ↔ c = (a, b) ∨ c ∈ m := by
  induction m with
  | nil => simp [Memory.insert]
  | cons d rest ih =>
    simp only [Memory.insert]
    split
    · simp only [List.mem_cons, ih]; tauto
    · simp

/-- A write inside the address space keeps the canonical form. -/
theorem Memory.write_wf {m : Memory} (h : Memory.wf font m) (a : Nat) (b : Byte) (ha : a < Config.memSize) :
    Memory.wf font (Memory.write font m a b) := by
  have hf : Memory.wf font (m.filter fun c => c.1 != a) :=
    ⟨h.1.filter _, fun c hc => h.2 c (List.mem_filter.1 hc).1⟩
  have hne : ∀ c ∈ m.filter (fun c => c.1 != a), c.1 ≠ a := by simp
  unfold Memory.write
  dsimp only
  split
  · exact hf
  · next hb =>
    generalize m.filter (fun c => c.1 != a) = l at hf hne
    refine ⟨?_, fun c hc => ?_⟩
    · obtain ⟨hs, -⟩ := hf
      induction l with
      | nil => exact List.pairwise_singleton _ _
      | cons d rest ih =>
        obtain ⟨hd, hs⟩ := List.pairwise_cons.1 hs
        have ih := ih (fun c hc => hne c (by simp [hc])) hs
        have hda := hne d (by simp)
        simp only [Memory.insert]
        split
        · next hlt =>
          refine List.pairwise_cons.2 ⟨fun c hc => ?_, ih⟩
          rcases Memory.mem_insert.1 hc with rfl | hc
          · exact hlt
          · exact hd c hc
        · next hlt =>
          have hlt : a < d.1 := by omega
          refine List.pairwise_cons.2 ⟨fun c hc => ?_, List.pairwise_cons.2 ⟨hd, hs⟩⟩
          rcases List.mem_cons.1 hc with rfl | hc
          · exact hlt
          · exact lt_trans hlt (hd c hc)
    · rcases Memory.mem_insert.1 hc with rfl | hc
      · exact ⟨ha, hb⟩
      · exact hf.2 c hc

/-- Every run of stores keeps the canonical form. -/
theorem Memory.storeBytes_wf (bs : List Byte) : ∀ {m : Memory} (_ : Memory.wf font m) (a : Nat),
    Memory.wf font (Memory.storeBytes font m a bs) := by
  induction bs with
  | nil => exact fun h _ => h
  | cons b bs ih => exact fun h a => ih (Memory.write_wf h _ b (Nat.mod_lt _ (by decide))) (a + 1)

/-- Outside the cells stored to, memory reads as before. -/
theorem Memory.read_storeBytes_outside (bs : List Byte) : ∀ (m : Memory) (a k : Nat),
    (∀ j, j < bs.length → k ≠ (a + j) % 4096) → Memory.read font (Memory.storeBytes font m a bs) k = Memory.read font m k := by
  induction bs with
  | nil => exact fun _ _ _ _ => rfl
  | cons b bs ih =>
    intro m a k h
    have h0 : a % 4096 ≠ k := fun e => h 0 (by simp) (by simpa using e.symm)
    rw [Memory.storeBytes, ih _ _ _ fun j hj => ?_, Memory.read_write, if_neg h0]
    have := h (j + 1) (by simpa using hj)
    rwa [Nat.add_assoc, Nat.add_comm 1 j]

/-- The j-th cell stored to holds the j-th byte, as long as the run does not overtake itself. -/
theorem Memory.read_storeBytes (bs : List Byte) : ∀ (m : Memory) (a : Nat), bs.length ≤ 4096 →
    ∀ j, (h : j < bs.length) → Memory.read font (Memory.storeBytes font m a bs) ((a + j) % 4096) = bs[j] := by
  induction bs with
  | nil => exact fun _ _ _ _ h => absurd h (by simp)
  | cons b bs ih =>
    intro m a hl j hj
    simp only [List.length_cons] at hl hj
    rw [Memory.storeBytes]
    cases j with
    | zero =>
      rw [Memory.read_storeBytes_outside _ _ _ _ fun j hj => by omega, Memory.read_write]
      simp
    | succ j =>
      have := ih (Memory.write font m (a % Config.memSize) b) (a + 1) (by omega) j (by omega)
      rw [show a + (j + 1) = a + 1 + j by omega, this]
      rfl

/-- After a run of stores: a stored cell reads as its byte (R54). -/
theorem State.memRead_storeBytes (s : State) (a : Nat) (bs : List Byte) (hl : bs.length ≤ 4096) (j : Nat)
    (h : j < bs.length) : (s.storeBytes a bs).memRead (a + j) = bs[j] :=
  Memory.read_storeBytes bs s.mem a hl j h

/-- After a run of stores: every other cell reads as before (R54). -/
theorem State.memRead_storeBytes_outside (s : State) (a : Nat) (bs : List Byte) (k : Nat)
    (h : ∀ j, j < bs.length → k % 4096 ≠ (a + j) % 4096) : (s.storeBytes a bs).memRead k = s.memRead k :=
  Memory.read_storeBytes_outside bs s.mem a _ h

/-- Right after reset memory lists nothing and is in canonical form, whatever the font table. -/
theorem State.reset_mem_wf (font : FontTable) : Memory.wf font State.reset.mem := ⟨List.Pairwise.nil, fun _ h => nomatch h⟩

end Sys2Proof.Machine
end

