-- ==== Sys2Proof/Laws/Ops.lean ====
section
/-! SUPPORT. One lemma per shared operation: the ALU and its flags (spec/43_load_alu.md R142), the call
stack (spec/10_state.md R24, R25), the key scan (spec/46_keypad_timers.md R177), the Timer Driver
(spec/60_exceptions.md R202). -/

namespace Sys2Proof.Machine

/-- A flag value is 1 exactly when its condition holds (R142 item 4). -/
theorem flagByte_eq_one (b : Bool) : flagByte b = 1 ↔ b = true := by cases b <;> decide

theorem flagByte_zero_or_one (b : Bool) : flagByte b = 0 ∨ flagByte b = 1 := by cases b <;> decide

theorem aluAdd_result (a b : Byte) : (aluAdd a b).1 = a + b := by
  apply BitVec.eq_of_toNat_eq; simp [aluAdd, BitVec.toNat_add]

theorem aluAdd_carry (a b : Byte) : (aluAdd a b).2 = decide (256 ≤ a.toNat + b.toNat) := rfl

theorem aluSub_result (a b : Byte) : (aluSub a b).1 = a - b := by
  apply BitVec.eq_of_toNat_eq
  have := a.isLt
  have := b.isLt
  simp only [aluSub, BitVec.toNat_ofInt, BitVec.toNat_sub]
  omega

theorem aluSub_noBorrow (a b : Byte) : (aluSub a b).2 = decide (b.toNat ≤ a.toNat) := rfl

theorem aluShr_result (a : Byte) : (aluShr a).1 = a >>> 1 := by
  apply BitVec.eq_of_toNat_eq
  have := a.isLt
  simp only [aluShr, BitVec.toNat_ofNat, BitVec.toNat_ushiftRight, Nat.shiftRight_eq_div_pow]
  omega

theorem aluShl_result (a : Byte) : (aluShl a).1 = a <<< 1 := by
  apply BitVec.eq_of_toNat_eq
  simp [aluShl, BitVec.toNat_shiftLeft, Nat.shiftLeft_eq]

/-- A push with room stores at `STACK[SP]` and adds 1 to SP (R25). -/
theorem State.push_of_room (s : State) (a : Word) (h : s.sp.val < 32) :
    s.push a = some { s with stack := s.stack.set s.sp.val a h, sp := ⟨s.sp.val + 1, Nat.succ_lt_succ h⟩ } :=
  dif_pos h

/-- A push on the full stack does nothing (R25). -/
theorem State.push_full (s : State) (a : Word) (h : s.sp.val = 32) : s.push a = none :=
  dif_neg (by rw [h]; decide)

/-- A pop of a non-empty stack takes 1 from SP and reads `STACK[SP]`; every entry stays (R24, R25). -/
theorem State.pop_of_some (s : State) (h : 0 < s.sp.val) :
    s.pop = some (s.stack[s.sp.val - 1]'(by have := s.sp.isLt; omega), { s with sp := ⟨s.sp.val - 1, by have := s.sp.isLt; omega⟩ }) :=
  if_pos h

/-- A pop of the empty stack does nothing (R25). -/
theorem State.pop_empty (s : State) (h : s.sp.val = 0) : s.pop = none :=
  if_neg (by omega)

/-- The key scan finds the least pressed key (R177). -/
theorem State.firstKey_eq_some (s : State) (k : Nat) :
    s.firstKey = some k ↔ ∃ h : k < 16, s.key ⟨k, h⟩ = true ∧ ∀ j : Reg, j.val < k → s.key j = false := by
  unfold State.firstKey State.key
  rw [List.findIdx?_eq_some_iff_getElem]
  simp only [Vector.length_toList, Vector.getElem_toList, id_eq]
  constructor
  · rintro ⟨h, hk, hj⟩
    exact ⟨h, hk, fun j hjk => by simpa using hj j.val hjk⟩
  · rintro ⟨h, hk, hj⟩
    exact ⟨h, hk, fun j hjk => by simpa using hj ⟨j, by omega⟩ hjk⟩

/-- The key scan finds nothing exactly when no key is pressed (R177). -/
theorem State.firstKey_eq_none (s : State) : s.firstKey = none ↔ ∀ k : Reg, s.key k = false := by
  unfold State.firstKey State.key
  rw [List.findIdx?_eq_none_iff]
  constructor
  · intro h k
    simpa using h (s.keys[k.val]) (by simp)
  · intro h b hb
    obtain ⟨k, hk, rfl⟩ := List.getElem_of_mem hb
    simpa using h ⟨k, by simpa using hk⟩

/-- The key a byte names has the byte's value modulo 16 (R181). -/
theorem keyIndex_val (b : Byte) : (keyIndex b).val = b.toNat % 16 := by
  show (b.extractLsb' 0 4).toNat = _
  simp [BitVec.extractLsb'_toNat]

/-- The registers a block store sends: X + 1 of them, the k-th being V[k] (R154). -/
theorem State.regsUpTo_length (s : State) (x : Reg) : (s.regsUpTo x).length = x.val + 1 := by
  have := x.isLt
  simp [State.regsUpTo]

theorem State.regsUpTo_get (s : State) (x : Reg) (k : Nat) (h : k < (s.regsUpTo x).length) :
    (s.regsUpTo x)[k] = s.reg ⟨k, by rw [State.regsUpTo_length] at h; have := x.isLt; omega⟩ := by
  simp [State.regsUpTo, State.reg]

/-- Counting down never goes below 0 (R202). -/
theorem countDown_toNat (b : Byte) : (countDown b).toNat = b.toNat - 1 := by
  unfold countDown
  split
  · next h => rw [h]; rfl
  · next h =>
    have h0 : b.toNat ≠ 0 := fun e => h (BitVec.eq_of_toNat_eq e)
    have := b.isLt
    have h1 : (1 : Byte).toNat = 1 := rfl
    rw [BitVec.toNat_sub, h1]
    omega

/-- What the end of a step can be: nothing in FAULT mode, a tick when the counter reaches the ratio,
one more completed step counted otherwise (R98, R202). -/
theorem State.endStep_cases (s : State) :
    (s.mode = .fault ∧ s.endStep = s) ∨
    (s.mode = .run ∧ s.tickCtr + 1 = (s.cyclesPerTick : Nat) ∧ s.endStep = s.tick) ∨
    (s.mode = .run ∧ s.tickCtr + 1 ≠ (s.cyclesPerTick : Nat) ∧ s.endStep = { s with tickCtr := s.tickCtr + 1 }) := by
  unfold State.endStep State.timerDriver
  cases s.mode with
  | fault => exact .inl ⟨rfl, rfl⟩
  | run =>
    by_cases h : s.tickCtr + 1 = (s.cyclesPerTick : Nat)
    · exact .inr (.inl ⟨rfl, h, if_pos h⟩)
    · exact .inr (.inr ⟨rfl, h, if_neg h⟩)

end Sys2Proof.Machine
end

