-- ==== Sys2Proof/Laws/Exec.lean ====
section
/-! SUPPORT. The meanings with branches, one equation per branch; the PC's advance as addition modulo 2^16;
and the frames of the shapes the meanings are built from. -/

namespace Sys2Proof.Machine

/-- Advancing the PC is addition modulo 2^16 (R22). -/
theorem ofNat_toNat_add (p : Word) (n : Nat) : BitVec.ofNat 16 (p.toNat + n) = p + BitVec.ofNat 16 n := by
  apply BitVec.eq_of_toNat_eq
  simp [BitVec.toNat_add]

/-- `00EE` with a return address on the stack (R110). -/
theorem exec_ret_of_some (s : State) (h : 0 < s.sp.val) :
    exec .ret s = .next (({ s with sp := ⟨s.sp.val - 1, by have := s.sp.isLt; omega⟩ } : State).setPc
      ((s.stack[s.sp.val - 1]'(by have := s.sp.isLt; omega)).toNat + 2)) := by
  simp only [exec, execRet, State.pop_of_some s h]

/-- `00EE` on the empty stack raises its fatal condition (R193). -/
theorem exec_ret_empty (s : State) (h : s.sp.val = 0) :
    exec .ret s = .next (s.raiseFatal .stackUnderflow (encode .ret)) := by
  simp only [exec, execRet, State.pop_empty s h]

/-- `2NNN` with room on the stack (R112). -/
theorem exec_call_of_room (s : State) (nnn : Address) (h : s.sp.val < 32) :
    exec (.call nnn) s = .next (({ s with
      stack := s.stack.set s.sp.val s.pc h, sp := ⟨s.sp.val + 1, Nat.succ_lt_succ h⟩ } : State).setPc nnn.toNat) := by
  simp only [exec, execCall, State.push_of_room s _ h]

/-- `2NNN` on the full stack raises its fatal condition (R192). -/
theorem exec_call_full (s : State) (nnn : Address) (h : s.sp.val = 32) :
    exec (.call nnn) s = .next (s.raiseFatal .stackOverflow (encode (.call nnn))) := by
  simp only [exec, execCall, State.push_full s _ h]

/-- `FX0A` with `k` the least pressed key (R177). -/
theorem exec_ldVxK_of_key (s : State) (x k : Reg) (hk : s.key k = true) (least : ∀ j : Reg, j < k → s.key j = false) :
    exec (.ldVxK x) s = .next ((s.setReg x (BitVec.ofNat 8 k.val)).advance 2) := by
  simp only [exec, execLdVxK, (s.firstKey_eq_some k.val).2 ⟨k.isLt, hk, least⟩]

/-- `FX0A` with no key pressed (R177). -/
theorem exec_ldVxK_no_key (s : State) (x : Reg) (h : ∀ k : Reg, s.key k = false) : exec (.ldVxK x) s = .next s := by
  simp only [exec, execLdVxK, s.firstKey_eq_none.2 h]

/-- The index after the quirk increment (R154). -/
theorem State.bumpI_index (s : State) (x : Reg) :
    (s.qIncI = true → (s.bumpI x).i.toNat = (s.i.toNat + x.val + 1) % 4096) ∧ (s.qIncI = false → (s.bumpI x).i = s.i) := by
  constructor <;> intro h <;> simp only [State.bumpI, h, if_true, State.setI_i, BitVec.toNat_ofNat]
  · omega
  · rfl

/-- Setting only the PC. -/
theorem onlyRegsPc_setPc (s : State) (n : Nat) : OnlyRegsPc [] s (s.setPc n) := ⟨rfl, fun _ _ => rfl, fun _ => rfl⟩

/-- Writing one register and advancing. -/
theorem onlyRegsPc_setReg (s : State) (x : Reg) (b : Byte) (n : Nat) :
    OnlyRegsPc [x] s ((s.setReg x b).advance n) := by
  refine ⟨rfl, fun r hr => ?_, fun _ => rfl⟩
  simp only [List.mem_singleton] at hr
  simp [Ne.symm hr]

/-- Writing a result and its flag and advancing. -/
theorem onlyRegsPc_setResultFlag (s : State) (x : Reg) (r : Byte × Bool) (n : Nat) :
    OnlyRegsPc [x, vF] s ((s.setResultFlag x r).advance n) := by
  refine ⟨rfl, fun q hq => ?_, fun _ => rfl⟩
  simp only [List.mem_cons, List.not_mem_nil, or_false, not_or] at hq
  simp [Ne.symm hq.1, Ne.symm hq.2]

end Sys2Proof.Machine
end

