-- ==== Sys2Proof/Laws/HostOps.lean ====
section
/-! SUPPORT. The host's operations, one lemma per field per operation (spec/40_step_cycle.md R90), what `load`
answers (R99), and that none of them leaves the memory's canonical form. -/

namespace Sys2Proof.Machine

variable (s : State)

@[simp] theorem State.doReset_v : s.doReset.v = State.reset.v := rfl
@[simp] theorem State.doReset_pc : s.doReset.pc = State.reset.pc := rfl
@[simp] theorem State.doReset_i : s.doReset.i = State.reset.i := rfl
@[simp] theorem State.doReset_stack : s.doReset.stack = State.reset.stack := rfl
@[simp] theorem State.doReset_sp : s.doReset.sp = State.reset.sp := rfl
@[simp] theorem State.doReset_dt : s.doReset.dt = State.reset.dt := rfl
@[simp] theorem State.doReset_st : s.doReset.st = State.reset.st := rfl
@[simp] theorem State.doReset_qShiftY : s.doReset.qShiftY = s.qShiftY := rfl
@[simp] theorem State.doReset_qIncI : s.doReset.qIncI = s.qIncI := rfl
@[simp] theorem State.doReset_tickCtr : s.doReset.tickCtr = State.reset.tickCtr := rfl
@[simp] theorem State.doReset_cyclesPerTick : s.doReset.cyclesPerTick = s.cyclesPerTick := rfl
@[simp] theorem State.doReset_font : s.doReset.font = s.font := rfl
@[simp] theorem State.doReset_mode : s.doReset.mode = State.reset.mode := rfl
@[simp] theorem State.doReset_err : s.doReset.err = State.reset.err := rfl
@[simp] theorem State.doReset_errOp : s.doReset.errOp = State.reset.errOp := rfl
@[simp] theorem State.doReset_mem : s.doReset.mem = State.reset.mem := rfl
@[simp] theorem State.doReset_fb : s.doReset.fb = State.reset.fb := rfl
@[simp] theorem State.doReset_keys : s.doReset.keys = s.keys := rfl
@[simp] theorem State.doReset_rndCtr : s.doReset.rndCtr = s.rndCtr := rfl
@[simp] theorem State.doReset_redraw : s.doReset.redraw = State.reset.redraw := rfl
@[simp] theorem State.doReset_soundExpiry : s.doReset.soundExpiry = State.reset.soundExpiry := rfl
@[simp] theorem State.doReset_faultOut : s.doReset.faultOut = State.reset.faultOut := rfl

@[simp] theorem State.setQuirks_v (a b : Bool) : (s.setQuirks a b).v = s.v := rfl
@[simp] theorem State.setQuirks_pc (a b : Bool) : (s.setQuirks a b).pc = s.pc := rfl
@[simp] theorem State.setQuirks_i (a b : Bool) : (s.setQuirks a b).i = s.i := rfl
@[simp] theorem State.setQuirks_stack (a b : Bool) : (s.setQuirks a b).stack = s.stack := rfl
@[simp] theorem State.setQuirks_sp (a b : Bool) : (s.setQuirks a b).sp = s.sp := rfl
@[simp] theorem State.setQuirks_dt (a b : Bool) : (s.setQuirks a b).dt = s.dt := rfl
@[simp] theorem State.setQuirks_st (a b : Bool) : (s.setQuirks a b).st = s.st := rfl
@[simp] theorem State.setQuirks_qShiftY (a b : Bool) : (s.setQuirks a b).qShiftY = a := rfl
@[simp] theorem State.setQuirks_qIncI (a b : Bool) : (s.setQuirks a b).qIncI = b := rfl
@[simp] theorem State.setQuirks_tickCtr (a b : Bool) : (s.setQuirks a b).tickCtr = s.tickCtr := rfl
@[simp] theorem State.setQuirks_cyclesPerTick (a b : Bool) : (s.setQuirks a b).cyclesPerTick = s.cyclesPerTick := rfl
@[simp] theorem State.setQuirks_font (a b : Bool) : (s.setQuirks a b).font = s.font := rfl
@[simp] theorem State.setQuirks_mode (a b : Bool) : (s.setQuirks a b).mode = s.mode := rfl
@[simp] theorem State.setQuirks_err (a b : Bool) : (s.setQuirks a b).err = s.err := rfl
@[simp] theorem State.setQuirks_errOp (a b : Bool) : (s.setQuirks a b).errOp = s.errOp := rfl
@[simp] theorem State.setQuirks_mem (a b : Bool) : (s.setQuirks a b).mem = s.mem := rfl
@[simp] theorem State.setQuirks_fb (a b : Bool) : (s.setQuirks a b).fb = s.fb := rfl
@[simp] theorem State.setQuirks_keys (a b : Bool) : (s.setQuirks a b).keys = s.keys := rfl
@[simp] theorem State.setQuirks_rndCtr (a b : Bool) : (s.setQuirks a b).rndCtr = s.rndCtr := rfl
@[simp] theorem State.setQuirks_redraw (a b : Bool) : (s.setQuirks a b).redraw = s.redraw := rfl
@[simp] theorem State.setQuirks_soundExpiry (a b : Bool) : (s.setQuirks a b).soundExpiry = s.soundExpiry := rfl
@[simp] theorem State.setQuirks_faultOut (a b : Bool) : (s.setQuirks a b).faultOut = s.faultOut := rfl

@[simp] theorem State.hostKeys_v (ks : Vector Bool 16) : (s.hostKeys ks).v = s.v := rfl
@[simp] theorem State.hostKeys_pc (ks : Vector Bool 16) : (s.hostKeys ks).pc = s.pc := rfl
@[simp] theorem State.hostKeys_i (ks : Vector Bool 16) : (s.hostKeys ks).i = s.i := rfl
@[simp] theorem State.hostKeys_stack (ks : Vector Bool 16) : (s.hostKeys ks).stack = s.stack := rfl
@[simp] theorem State.hostKeys_sp (ks : Vector Bool 16) : (s.hostKeys ks).sp = s.sp := rfl
@[simp] theorem State.hostKeys_dt (ks : Vector Bool 16) : (s.hostKeys ks).dt = s.dt := rfl
@[simp] theorem State.hostKeys_st (ks : Vector Bool 16) : (s.hostKeys ks).st = s.st := rfl
@[simp] theorem State.hostKeys_qShiftY (ks : Vector Bool 16) : (s.hostKeys ks).qShiftY = s.qShiftY := rfl
@[simp] theorem State.hostKeys_qIncI (ks : Vector Bool 16) : (s.hostKeys ks).qIncI = s.qIncI := rfl
@[simp] theorem State.hostKeys_tickCtr (ks : Vector Bool 16) : (s.hostKeys ks).tickCtr = s.tickCtr := rfl
@[simp] theorem State.hostKeys_cyclesPerTick (ks : Vector Bool 16) : (s.hostKeys ks).cyclesPerTick = s.cyclesPerTick := rfl
@[simp] theorem State.hostKeys_font (ks : Vector Bool 16) : (s.hostKeys ks).font = s.font := rfl
@[simp] theorem State.hostKeys_mode (ks : Vector Bool 16) : (s.hostKeys ks).mode = s.mode := rfl
@[simp] theorem State.hostKeys_err (ks : Vector Bool 16) : (s.hostKeys ks).err = s.err := rfl
@[simp] theorem State.hostKeys_errOp (ks : Vector Bool 16) : (s.hostKeys ks).errOp = s.errOp := rfl
@[simp] theorem State.hostKeys_mem (ks : Vector Bool 16) : (s.hostKeys ks).mem = s.mem := rfl
@[simp] theorem State.hostKeys_fb (ks : Vector Bool 16) : (s.hostKeys ks).fb = s.fb := rfl
@[simp] theorem State.hostKeys_keys (ks : Vector Bool 16) : (s.hostKeys ks).keys = ks := rfl
@[simp] theorem State.hostKeys_rndCtr (ks : Vector Bool 16) : (s.hostKeys ks).rndCtr = s.rndCtr := rfl
@[simp] theorem State.hostKeys_redraw (ks : Vector Bool 16) : (s.hostKeys ks).redraw = s.redraw := rfl
@[simp] theorem State.hostKeys_soundExpiry (ks : Vector Bool 16) : (s.hostKeys ks).soundExpiry = s.soundExpiry := rfl
@[simp] theorem State.hostKeys_faultOut (ks : Vector Bool 16) : (s.hostKeys ks).faultOut = s.faultOut := rfl

@[simp] theorem State.hostPixel_v (x : Fin 64) (y : Fin 32) (b : Bool) : (s.hostPixel x y b).v = s.v := rfl
@[simp] theorem State.hostPixel_pc (x : Fin 64) (y : Fin 32) (b : Bool) : (s.hostPixel x y b).pc = s.pc := rfl
@[simp] theorem State.hostPixel_i (x : Fin 64) (y : Fin 32) (b : Bool) : (s.hostPixel x y b).i = s.i := rfl
@[simp] theorem State.hostPixel_stack (x : Fin 64) (y : Fin 32) (b : Bool) : (s.hostPixel x y b).stack = s.stack := rfl
@[simp] theorem State.hostPixel_sp (x : Fin 64) (y : Fin 32) (b : Bool) : (s.hostPixel x y b).sp = s.sp := rfl
@[simp] theorem State.hostPixel_dt (x : Fin 64) (y : Fin 32) (b : Bool) : (s.hostPixel x y b).dt = s.dt := rfl
@[simp] theorem State.hostPixel_st (x : Fin 64) (y : Fin 32) (b : Bool) : (s.hostPixel x y b).st = s.st := rfl
@[simp] theorem State.hostPixel_qShiftY (x : Fin 64) (y : Fin 32) (b : Bool) : (s.hostPixel x y b).qShiftY = s.qShiftY := rfl
@[simp] theorem State.hostPixel_qIncI (x : Fin 64) (y : Fin 32) (b : Bool) : (s.hostPixel x y b).qIncI = s.qIncI := rfl
@[simp] theorem State.hostPixel_tickCtr (x : Fin 64) (y : Fin 32) (b : Bool) : (s.hostPixel x y b).tickCtr = s.tickCtr := rfl
@[simp] theorem State.hostPixel_cyclesPerTick (x : Fin 64) (y : Fin 32) (b : Bool) : (s.hostPixel x y b).cyclesPerTick = s.cyclesPerTick := rfl
@[simp] theorem State.hostPixel_font (x : Fin 64) (y : Fin 32) (b : Bool) : (s.hostPixel x y b).font = s.font := rfl
@[simp] theorem State.hostPixel_mode (x : Fin 64) (y : Fin 32) (b : Bool) : (s.hostPixel x y b).mode = s.mode := rfl
@[simp] theorem State.hostPixel_err (x : Fin 64) (y : Fin 32) (b : Bool) : (s.hostPixel x y b).err = s.err := rfl
@[simp] theorem State.hostPixel_errOp (x : Fin 64) (y : Fin 32) (b : Bool) : (s.hostPixel x y b).errOp = s.errOp := rfl
@[simp] theorem State.hostPixel_mem (x : Fin 64) (y : Fin 32) (b : Bool) : (s.hostPixel x y b).mem = s.mem := rfl
@[simp] theorem State.hostPixel_fb (x : Fin 64) (y : Fin 32) (b : Bool) : (s.hostPixel x y b).fb = fbWrite s.fb x.val y.val b := rfl
@[simp] theorem State.hostPixel_keys (x : Fin 64) (y : Fin 32) (b : Bool) : (s.hostPixel x y b).keys = s.keys := rfl
@[simp] theorem State.hostPixel_rndCtr (x : Fin 64) (y : Fin 32) (b : Bool) : (s.hostPixel x y b).rndCtr = s.rndCtr := rfl
@[simp] theorem State.hostPixel_redraw (x : Fin 64) (y : Fin 32) (b : Bool) : (s.hostPixel x y b).redraw = s.redraw := rfl
@[simp] theorem State.hostPixel_soundExpiry (x : Fin 64) (y : Fin 32) (b : Bool) : (s.hostPixel x y b).soundExpiry = s.soundExpiry := rfl
@[simp] theorem State.hostPixel_faultOut (x : Fin 64) (y : Fin 32) (b : Bool) : (s.hostPixel x y b).faultOut = s.faultOut := rfl

/-- `load` of an image that fits is a run of stores from 0x200 (R99). -/
theorem State.load_of_fits {bytes : List Byte} (h : bytes.length ≤ 3584) :
    s.load bytes = .next (s.storeBytes 0x200 bytes) := if_pos h

/-- `load` of a longer image is refused (R220, log entry 13). -/
theorem State.load_too_long {bytes : List Byte} (h : 3584 < bytes.length) :
    s.load bytes = .refused (.imageTooLong bytes.length) := if_neg (Nat.not_le.2 h)

/-- A construction is the reset state with the given ratio, quirk bits and keys, and its ratio is not 0 (R101, R217). -/
theorem State.construct_cases {ratio : Nat} {font : FontTable} {a b : Bool} {ks : Vector Bool 16} {t : State}
    (h : State.construct ratio font a b ks = .next t) :
    ∃ p : 0 < ratio, t = { State.reset with cyclesPerTick := ⟨ratio, p⟩, font := font, qShiftY := a, qIncI := b, keys := ks } := by
  unfold State.construct at h
  split at h
  · next p => exact ⟨p, by simpa using h.symm⟩
  · cases h

/-- `reset()` and `load` keep the memory's canonical form. -/
theorem State.doReset_mem_wf : Memory.wf s.doReset.font s.doReset.mem := State.reset_mem_wf s.font

theorem State.storeBytes_mem_wf (h : Memory.wf s.font s.mem) (a : Nat) (bs : List Byte) : Memory.wf s.font (s.storeBytes a bs).mem :=
  Memory.storeBytes_wf bs h a

/-- The induction over a run of host operations, once: what every construction has and every operation keeps holds
of every reachable state (R90, R101, R217). -/
theorem Reachable.of_invariant {Inv : State → Prop}
    (start : ∀ ratio font a b ks t, State.construct ratio font a b ks = .next t → Inv t)
    (keep : ∀ o s t, Inv s → hostOp o s = .next t → Inv t) {s : State} (h : Reachable s) : Inv s := by
  induction h with
  | construct h => exact start _ _ _ _ _ _ h
  | op _ h ih => exact keep _ _ _ ih h

end Sys2Proof.Machine
end

