-- ==== Sys2Proof/Laws/PerInstr.lean ====
section
/-! SUPPORT. The per-instruction family `Encoding`: the word the encoder writes for an instruction has the
fixed digits of that instruction's own row of the opcode map (spec/30_encoding.md R75). -/

namespace Sys2Proof.Laws.Encoding

/-- The instruction's word matches the instruction's row (R75). -/
def Statement (i : Instr) : Prop := i.row.accepts (encode i) = true

theorem cls : Statement .cls := rfl
theorem ret : Statement .ret := rfl
theorem jp (nnn : Address) : Statement (.jp nnn) :=
  (OpcodeRow.accepts_iff _ _).2 (formatA_and_F000 _ nnn)
theorem call (nnn : Address) : Statement (.call nnn) :=
  (OpcodeRow.accepts_iff _ _).2 (formatA_and_F000 _ nnn)
theorem seImm (x : Reg) (nn : Byte) : Statement (.seImm x nn) :=
  (OpcodeRow.accepts_iff _ _).2 (formatI_and_F000 _ x nn)
theorem sneImm (x : Reg) (nn : Byte) : Statement (.sneImm x nn) :=
  (OpcodeRow.accepts_iff _ _).2 (formatI_and_F000 _ x nn)
theorem seReg (x y : Reg) : Statement (.seReg x y) :=
  (OpcodeRow.accepts_iff _ _).2 (formatR_and_F00F _ x y _)
theorem sneReg (x y : Reg) : Statement (.sneReg x y) :=
  (OpcodeRow.accepts_iff _ _).2 (formatR_and_F00F _ x y _)
theorem ldImm (x : Reg) (nn : Byte) : Statement (.ldImm x nn) :=
  (OpcodeRow.accepts_iff _ _).2 (formatI_and_F000 _ x nn)
theorem addImm (x : Reg) (nn : Byte) : Statement (.addImm x nn) :=
  (OpcodeRow.accepts_iff _ _).2 (formatI_and_F000 _ x nn)
theorem ldReg (x y : Reg) : Statement (.ldReg x y) :=
  (OpcodeRow.accepts_iff _ _).2 (formatR_and_F00F _ x y _)
theorem orReg (x y : Reg) : Statement (.orReg x y) :=
  (OpcodeRow.accepts_iff _ _).2 (formatR_and_F00F _ x y _)
theorem andReg (x y : Reg) : Statement (.andReg x y) :=
  (OpcodeRow.accepts_iff _ _).2 (formatR_and_F00F _ x y _)
theorem xorReg (x y : Reg) : Statement (.xorReg x y) :=
  (OpcodeRow.accepts_iff _ _).2 (formatR_and_F00F _ x y _)
theorem addReg (x y : Reg) : Statement (.addReg x y) :=
  (OpcodeRow.accepts_iff _ _).2 (formatR_and_F00F _ x y _)
theorem sub (x y : Reg) : Statement (.sub x y) :=
  (OpcodeRow.accepts_iff _ _).2 (formatR_and_F00F _ x y _)
theorem shr (x y : Reg) : Statement (.shr x y) :=
  (OpcodeRow.accepts_iff _ _).2 (formatR_and_F00F _ x y _)
theorem subn (x y : Reg) : Statement (.subn x y) :=
  (OpcodeRow.accepts_iff _ _).2 (formatR_and_F00F _ x y _)
theorem shl (x y : Reg) : Statement (.shl x y) :=
  (OpcodeRow.accepts_iff _ _).2 (formatR_and_F00F _ x y _)
theorem ldI (nnn : Address) : Statement (.ldI nnn) :=
  (OpcodeRow.accepts_iff _ _).2 (formatA_and_F000 _ nnn)
theorem jpV0 (nnn : Address) : Statement (.jpV0 nnn) :=
  (OpcodeRow.accepts_iff _ _).2 (formatA_and_F000 _ nnn)
theorem rnd (x : Reg) (nn : Byte) : Statement (.rnd x nn) :=
  (OpcodeRow.accepts_iff _ _).2 (formatI_and_F000 _ x nn)
theorem drw (x y : Reg) (n : Nibble) : Statement (.drw x y n) :=
  (OpcodeRow.accepts_iff _ _).2 (formatR_and_F000 _ x y n)
theorem skp (x : Reg) : Statement (.skp x) :=
  (OpcodeRow.accepts_iff _ _).2 (formatI_and_F0FF _ x _)
theorem sknp (x : Reg) : Statement (.sknp x) :=
  (OpcodeRow.accepts_iff _ _).2 (formatI_and_F0FF _ x _)
theorem ldVxDt (x : Reg) : Statement (.ldVxDt x) :=
  (OpcodeRow.accepts_iff _ _).2 (formatI_and_F0FF _ x _)
theorem ldDtVx (x : Reg) : Statement (.ldDtVx x) :=
  (OpcodeRow.accepts_iff _ _).2 (formatI_and_F0FF _ x _)
theorem ldStVx (x : Reg) : Statement (.ldStVx x) :=
  (OpcodeRow.accepts_iff _ _).2 (formatI_and_F0FF _ x _)
theorem ldVxK (x : Reg) : Statement (.ldVxK x) :=
  (OpcodeRow.accepts_iff _ _).2 (formatI_and_F0FF _ x _)
theorem addI (x : Reg) : Statement (.addI x) :=
  (OpcodeRow.accepts_iff _ _).2 (formatI_and_F0FF _ x _)
theorem ldF (x : Reg) : Statement (.ldF x) :=
  (OpcodeRow.accepts_iff _ _).2 (formatI_and_F0FF _ x _)
theorem ldB (x : Reg) : Statement (.ldB x) :=
  (OpcodeRow.accepts_iff _ _).2 (formatI_and_F0FF _ x _)
theorem storeRegs (x : Reg) : Statement (.storeRegs x) :=
  (OpcodeRow.accepts_iff _ _).2 (formatI_and_F0FF _ x _)
theorem loadRegs (x : Reg) : Statement (.loadRegs x) :=
  (OpcodeRow.accepts_iff _ _).2 (formatI_and_F0FF _ x _)

end Sys2Proof.Laws.Encoding
end

