-- ==== Sys2Proof/Laws/Step.lean ====
section
/-! SUPPORT. Everything a step can do, said once (spec/40_step_cycle.md R91), and everything an instruction
can do to the fields that are not its operands (spec/10_state.md R38, spec/60_exceptions.md R190). -/

namespace Sys2Proof.Machine

/-- A step in FAULT mode (R95). -/
theorem step_of_fault {s : State} (h : s.mode = .fault) : step s = .next s.inertStep := by
  simp only [step, h]

/-- A step whose word is no instruction (R93, R191). -/
theorem step_of_unknown {s : State} (h : s.mode = .run) (hd : decode s.fetchWord = none) :
    step s = .next (s.raiseFatal .unknownOpcode s.fetchWord) := by
  simp only [step, h, hd]

/-- A step whose instruction gives a next state (R94, R98). -/
theorem step_of_exec {s m : State} {i : Instr} (h : s.mode = .run) (hd : decode s.fetchWord = some i)
    (he : exec i s.beginStep = .next m) : step s = .next m.endStep := by
  simp only [step, h, hd, he]

/-- Everything a step can do: it is inert, or raises the unknown-opcode condition, or runs the decoded
instruction and ends (R91). -/
theorem step_cases {s t : State} (h : step s = .next t) :
    (s.mode = .fault ∧ t = s.inertStep) ∨
    (s.mode = .run ∧ decode s.fetchWord = none ∧ t = s.raiseFatal .unknownOpcode s.fetchWord) ∨
    ∃ i m, s.mode = .run ∧ decode s.fetchWord = some i ∧ exec i s.beginStep = .next m ∧ t = m.endStep := by
  cases hm : s.mode with
  | fault => exact .inl ⟨rfl, by simpa [step_of_fault hm] using h.symm⟩
  | run =>
    cases hd : decode s.fetchWord with
    | none => exact .inr (.inl ⟨rfl, rfl, by simpa [step_of_unknown hm hd] using h.symm⟩)
    | some i =>
      cases he : exec i s.beginStep with
      | next m => exact .inr (.inr ⟨i, m, rfl, rfl, he, by simpa [step_of_exec hm hd he] using h.symm⟩)
      | fault r => simp [step, hm, hd, he] at h
      | refused r => simp [step, hm, hd, he] at h

/-- The two fatal conditions an instruction can raise, and when (R192, R193). -/
inductive Fatal (s : State) : Instr → ErrCode → Prop where
  | overflow {nnn : Address} : s.sp.val = 32 → Fatal s (.call nnn) .stackOverflow
  | underflow : s.sp.val = 0 → Fatal s .ret .stackUnderflow

/-- An instruction left alone everything that only the step, the host and fault entry write (R38). -/
structure Committed (s t : State) : Prop where
  mode : t.mode = s.mode
  err : t.err = s.err
  errOp : t.errOp = s.errOp
  tickCtr : t.tickCtr = s.tickCtr
  cyclesPerTick : t.cyclesPerTick = s.cyclesPerTick
  font : t.font = s.font
  qShiftY : t.qShiftY = s.qShiftY
  qIncI : t.qIncI = s.qIncI
  keys : t.keys = s.keys
  soundExpiry : t.soundExpiry = s.soundExpiry
  faultOut : t.faultOut = s.faultOut

theorem Committed.bumpI {s t : State} (h : Committed s t) (x : Reg) (n : Nat) : Committed s ((t.bumpI x).advance n) := by
  unfold State.bumpI
  split <;> exact ⟨h.1, h.2, h.3, h.4, h.5, h.6, h.7, h.8, h.9, h.10, h.11⟩

/-- Everything an instruction can do to those fields: it raises its fatal condition, which discards every
other write (R199), or it commits and leaves them. -/
theorem exec_cases {i : Instr} {s t : State} (h : exec i s = .next t) :
    (∃ code, Fatal s i code ∧ t = s.raiseFatal code (encode i)) ∨ Committed s t := by
  cases i with
  | ret =>
    by_cases hs : s.sp.val = 0
    · rw [exec_ret_empty s hs] at h
      cases h
      exact .inl ⟨_, .underflow hs, rfl⟩
    · rw [exec_ret_of_some s (Nat.pos_of_ne_zero hs)] at h
      cases h
      exact .inr ⟨rfl, rfl, rfl, rfl, rfl, rfl, rfl, rfl, rfl, rfl, rfl⟩
  | call nnn =>
    by_cases hs : s.sp.val = 32
    · rw [exec_call_full s nnn hs] at h
      cases h
      exact .inl ⟨_, .overflow hs, rfl⟩
    · rw [exec_call_of_room s nnn (by have := s.sp.isLt; omega)] at h
      cases h
      exact .inr ⟨rfl, rfl, rfl, rfl, rfl, rfl, rfl, rfl, rfl, rfl, rfl⟩
  | ldVxK x =>
    simp only [exec, execLdVxK] at h
    split at h <;> cases h <;> exact .inr ⟨rfl, rfl, rfl, rfl, rfl, rfl, rfl, rfl, rfl, rfl, rfl⟩
  | storeRegs x =>
    cases h
    have : Committed s (s.storeBytes s.i.toNat (s.regsUpTo x)) := ⟨rfl, rfl, rfl, rfl, rfl, rfl, rfl, rfl, rfl, rfl, rfl⟩
    exact .inr (this.bumpI x 2)
  | loadRegs x =>
    cases h
    have : Committed s (s.loadUpTo x) := by
      unfold State.loadUpTo; exact ⟨rfl, rfl, rfl, rfl, rfl, rfl, rfl, rfl, rfl, rfl, rfl⟩
    exact .inr (this.bumpI x 2)
  | _ => cases h; exact .inr ⟨rfl, rfl, rfl, rfl, rfl, rfl, rfl, rfl, rfl, rfl, rfl⟩

/-- The word stored at the PC is the word fetched, wherever the PC is (R51, R63). -/
theorem State.fetchWord_placeWord (s : State) (w : Word) : (s.placeWord w).fetchWord = w := by
  have h0 := s.memRead_storeBytes s.pc.toNat [highByte w, lowByte w] (by simp) 0 (by simp)
  have h1 := s.memRead_storeBytes s.pc.toNat [highByte w, lowByte w] (by simp) 1 (by simp)
  have hf : (s.placeWord w).fetchWord =
      wordOfBytes ((s.placeWord w).memRead (s.pc.toNat + 0)) ((s.placeWord w).memRead (s.pc.toNat + 1)) := rfl
  rw [hf, State.placeWord, h0, h1]
  exact wordOfBytes_high_low w

end Sys2Proof.Machine
end

