-- ==== Sys2Proof/Tests/Slice0.lean ====
section
/-! SUPPORT. Tests. Expected values come from the spec: the vectors of spec/95_test_vectors.md (named by id in
each comment) or the words of spec/30_encoding.md. The last part meets the hypotheses of the statements, one
theorem for each statement that has some. -/

namespace Sys2Proof.Tests

open Machine

/-- The conventions of spec/95: the reset state with some registers set. -/
def regs (l : List (Reg × Byte)) : State := l.foldl (fun s p => s.setReg p.1 p.2) State.reset

/-- A state with the word `w` at its PC. -/
def placed (w : Word) (s : State) : State := s.placeWord w

/-- The next state of an outcome, if it is one. -/
def nextOf : Host.Outcome State Fault Refusal → Option State
  | .next t => some t
  | .fault _ => none
  | .refused _ => none

/-- One step on the word `w` at the PC of `s`. -/
def after (w : Word) (s : State) : Option State := nextOf (step (placed w s))

/-- A state with these keys pressed and no other. -/
def pressed (ks : List Nat) (s : State) : State := s.hostKeys (Vector.ofFn fun k : Fin 16 => ks.contains k.val)

/-- A state with these bytes from address `a`. -/
def bytesAt (a : Nat) (bs : List Byte) (s : State) : State := s.storeBytes a bs

/-- A state with this pixel set. -/
def dot (x : Fin 64) (y : Fin 32) (s : State) : State := s.hostPixel x y true

/-- The pixels of a state that are 1 on the row `y`, by column. -/
def rowOn (y : Nat) (s : State) : List Nat := (List.range 64).filter fun x => fbRead s.fb x y

/-! ### Well-formed words (R76): a word that misses a check of its family is refused, one that meets it is not -/

theorem test_legal_family0 : legalWord 0x00E0 = true ∧ legalWord 0x00E1 = false ∧ legalWord 0x01E0 = false ∧
    legalWord 0x0123 = false ∧ legalWord 0x0000 = false := by decide
theorem test_legal_family5_and_9 : legalWord 0x5AB0 = true ∧ legalWord 0x5AB1 = false ∧ legalWord 0x9AB0 = true ∧
    legalWord 0x9ABF = false := by decide
theorem test_legal_family8 : legalWord 0x8AB7 = true ∧ legalWord 0x8ABE = true ∧ legalWord 0x8AB8 = false ∧
    legalWord 0x8AB9 = false ∧ legalWord 0x8ABD = false ∧ legalWord 0x8ABF = false := by decide
theorem test_legal_familyE : legalWord 0xE09E = true ∧ legalWord 0xE0A1 = true ∧ legalWord 0xE09F = false ∧
    legalWord 0xE1A0 = false := by decide
theorem test_legal_familyF : legalWord 0xFF65 = true ∧ legalWord 0xF000 = false ∧ legalWord 0xF101 = false ∧
    legalWord 0xF030 = false ∧ legalWord 0xF13A = false ∧ legalWord 0xF075 = false ∧ legalWord 0xFFFF = false := by decide

/-! ### Decoding, one word written out per constructor (R71, R72, R75) -/

theorem test_decode_cls : decode 0b0000000011100000 = some .cls := by decide
theorem test_decode_ret : decode 0b0000000011101110 = some .ret := by decide
theorem test_decode_jp : decode 0b0001101010111100 = some (.jp 0xABC) := by decide
theorem test_decode_call : decode 0b0010001000001100 = some (.call 0x20C) := by decide
theorem test_decode_seImm : decode 0b0011101001000010 = some (.seImm 10 0x42) := by decide
theorem test_decode_sneImm : decode 0b0100101001000010 = some (.sneImm 10 0x42) := by decide
theorem test_decode_seReg : decode 0b0101000100100000 = some (.seReg 1 2) := by decide
theorem test_decode_sneReg : decode 0b1001000100100000 = some (.sneReg 1 2) := by decide
theorem test_decode_ldImm : decode 0b0110101000101010 = some (.ldImm 10 0x2A) := by decide
theorem test_decode_addImm : decode 0b0111101000000001 = some (.addImm 10 0x01) := by decide
theorem test_decode_ldReg : decode 0b1000000100100000 = some (.ldReg 1 2) := by decide
theorem test_decode_orReg : decode 0b1000000100100001 = some (.orReg 1 2) := by decide
theorem test_decode_andReg : decode 0b1000000100100010 = some (.andReg 1 2) := by decide
theorem test_decode_xorReg : decode 0b1000000100100011 = some (.xorReg 1 2) := by decide
theorem test_decode_addReg : decode 0b1000000100100100 = some (.addReg 1 2) := by decide
theorem test_decode_sub : decode 0b1000000100100101 = some (.sub 1 2) := by decide
theorem test_decode_shr : decode 0b1000000100100110 = some (.shr 1 2) := by decide
theorem test_decode_subn : decode 0b1000000100100111 = some (.subn 1 2) := by decide
theorem test_decode_shl : decode 0b1000000100101110 = some (.shl 1 2) := by decide
theorem test_decode_ldI : decode 0b1010001011110000 = some (.ldI 0x2F0) := by decide
theorem test_decode_jpV0 : decode 0b1011001100000000 = some (.jpV0 0x300) := by decide
theorem test_decode_rnd : decode 0b1100000100001111 = some (.rnd 1 0x0F) := by decide
theorem test_decode_drw : decode 0b1101000100100101 = some (.drw 1 2 5) := by decide
theorem test_decode_skp : decode 0b1110000110011110 = some (.skp 1) := by decide
theorem test_decode_sknp : decode 0b1110000110100001 = some (.sknp 1) := by decide
theorem test_decode_ldVxDt : decode 0b1111000100000111 = some (.ldVxDt 1) := by decide
theorem test_decode_ldDtVx : decode 0b1111000100010101 = some (.ldDtVx 1) := by decide
theorem test_decode_ldStVx : decode 0b1111000100011000 = some (.ldStVx 1) := by decide
theorem test_decode_ldVxK : decode 0b1111001100001010 = some (.ldVxK 3) := by decide
theorem test_decode_addI : decode 0b1111001000011110 = some (.addI 2) := by decide
theorem test_decode_ldF : decode 0b1111000000101001 = some (.ldF 0) := by decide
theorem test_decode_ldB : decode 0b1111000000110011 = some (.ldB 0) := by decide
theorem test_decode_storeRegs : decode 0b1111001001010101 = some (.storeRegs 2) := by decide
theorem test_decode_loadRegs : decode 0b1111111101100101 = some (.loadRegs 15) := by decide

/-- Bytes in address order, high byte first (R52), and the host's numbering of the same word. -/
theorem test_decodeBytes : decodeBytes [0xA2, 0xF0, 0x00] = .ok (.ldI 0x2F0, [0x00]) ∧
    decodeBytes [0xF1, 0x3A] = .error (.unknownOpcode 0xF13A) ∧ decodeBytes [0x12] = .error .truncated := by decide
theorem test_decodeTableWord : decodeTableWord 16 0xD125 = some (.drw 1 2 5) ∧ decodeTableWord 16 0 = none := by decide
theorem test_withFetchWord : (State.reset.withFetchWord 16 0x6A2A).fetchWord = 0x6A2A ∧
    ((step (State.reset.withFetchWord 16 0x6A2A)) |> nextOf |>.map (·.reg 10)) = some 0x2A := by decide

/-! ### One step on each instruction -/

/-- D5, first half of the outputs. -/
theorem test_cls : (after 0x00E0 (dot 63 31 (dot 10 5 (regs [(15, 1)])))).map
    (fun t => (t.fb, t.reg 15, t.redraw, t.pc)) = some (Framebuffer.blank, 1, true, 0x202) := by decide
/-- T7, T9. -/
theorem test_ret : (after 0x00EE { State.reset with pc := 0x400, sp := 1, stack := State.reset.stack.set 0 0x210 }).map
    (fun t => (t.pc, t.sp.val, t.stack[0])) = some (0x212, 0, 0x210) := by decide
theorem test_ret_wraps : (after 0x00EE { State.reset with sp := 1, stack := State.reset.stack.set 0 0xFFFE }).map
    (fun t => (t.pc, t.sp.val)) = some (0x0000, 0) := by decide
/-- T3. -/
theorem test_jp_odd : (after 0x1201 State.reset).map (·.pc) = some 0x201 := by decide
/-- T5, T10. -/
theorem test_call_32nd : (after 0x2400 { State.reset with sp := 31 }).map
    (fun t => (t.stack[31], t.sp.val, t.pc, t.mode)) = some (0x200, 32, 0x400, .run) := by decide
theorem test_call_pushes_16_bits : (after 0x2234 { State.reset with pc := 0x1000 }).map
    (fun t => (t.stack[0], t.sp.val, t.pc)) = some (0x1000, 1, 0x234) := by decide
/-- T12, T13. -/
theorem test_jpV0 : (after 0xB300 (regs [(0, 0x10)])).map (·.pc) = some 0x310 := by decide
theorem test_jpV0_not_masked : (after 0xBFFF (regs [(0, 0xFF)])).map (·.pc) = some 0x10FE := by decide
/-- S1, S2; T18. -/
theorem test_seImm : (after 0x3A42 (regs [(10, 0x42)])).map (·.pc) = some 0x204 ∧
    (after 0x3A42 (regs [(10, 0x43)])).map (·.pc) = some 0x202 := by decide
theorem test_seImm_wraps : (after 0x3000 { State.reset with pc := 0xFFFE }).map (·.pc) = some 0x0002 := by decide
/-- S3, S4. -/
theorem test_sneImm : (after 0x4A42 (regs [(10, 0x42)])).map (·.pc) = some 0x202 ∧
    (after 0x4A42 (regs [(10, 0x43)])).map (·.pc) = some 0x204 := by decide
/-- S5, S6. -/
theorem test_seReg : (after 0x5120 (regs [(1, 7), (2, 7)])).map (·.pc) = some 0x204 ∧
    (after 0x5120 (regs [(1, 7), (2, 8)])).map (·.pc) = some 0x202 := by decide
/-- S7, S8. -/
theorem test_sneReg : (after 0x9120 (regs [(1, 7), (2, 7)])).map (·.pc) = some 0x202 ∧
    (after 0x9120 (regs [(1, 7), (2, 8)])).map (·.pc) = some 0x204 := by decide
/-- A2; T17. -/
theorem test_ldImm_VF : (after 0x6F00 (regs [(15, 1)])).map (fun t => (t.reg 15, t.pc)) = some (0, 0x202) := by decide
theorem test_ldImm_across_the_top : (after 0x6A55 { State.reset with pc := 0x0FFF }).map
    (fun t => (t.reg 10, t.pc)) = some (0x55, 0x1001) := by decide
/-- A4, A5. -/
theorem test_addImm_no_flag : (after 0x7A01 (regs [(10, 0xFF), (15, 1)])).map
    (fun t => (t.reg 10, t.reg 15)) = some (0, 1) := by decide
theorem test_addImm_VF : (after 0x7F02 (regs [(15, 0xFF)])).map (·.reg 15) = some 1 := by decide
/-- A7. -/
theorem test_ldReg : (after 0x8120 (regs [(1, 0x11), (2, 0x33)])).map (fun t => (t.reg 1, t.reg 2)) = some (0x33, 0x33) := by
  decide
/-- A8. -/
theorem test_orReg : (after 0x8121 (regs [(1, 0x0F), (2, 0xA0), (15, 1)])).map
    (fun t => (t.reg 1, t.reg 15)) = some (0xAF, 1) := by decide
/-- A9. -/
theorem test_andReg : (after 0x8122 (regs [(1, 0x3C), (2, 0x0F), (15, 1)])).map
    (fun t => (t.reg 1, t.reg 15)) = some (0x0C, 1) := by decide
/-- A10. -/
theorem test_xorReg : (after 0x8123 (regs [(1, 0xFF), (2, 0x0F), (15, 1)])).map
    (fun t => (t.reg 1, t.reg 15)) = some (0xF0, 1) := by decide
/-- A14; A20. -/
theorem test_addReg_carry_at_256 : (after 0x8014 (regs [(0, 0xFF), (1, 1)])).map
    (fun t => (t.reg 0, t.reg 15)) = some (0, 1) := by decide
theorem test_addReg_VF_is_addend : (after 0x81F4 (regs [(1, 0xFF), (15, 1)])).map
    (fun t => (t.reg 1, t.reg 15)) = some (0, 1) := by decide
/-- A22; A27. -/
theorem test_sub_borrow : (after 0x8015 (regs [(0, 1), (1, 2)])).map (fun t => (t.reg 0, t.reg 15)) = some (0xFF, 0) := by
  decide
theorem test_sub_into_VF : (after 0x8F15 (regs [(15, 3), (1, 5)])).map (·.reg 15) = some 0 := by decide
/-- A33; A39. -/
theorem test_shr_in_place : (after 0x8126 (regs [(1, 5), (2, 0x0A)])).map
    (fun t => (t.reg 1, t.reg 15, t.reg 2)) = some (2, 1, 0x0A) := by decide
theorem test_shr_from_VF : (after 0x81F6 { regs [(1, 0x10), (15, 1)] with qShiftY := true }).map
    (fun t => (t.reg 1, t.reg 15)) = some (0, 1) := by decide
/-- A29, A30. -/
theorem test_subn : (after 0x8017 (regs [(0, 1), (1, 2)])).map (fun t => (t.reg 0, t.reg 15)) = some (1, 1) := by decide
theorem test_subn_borrow : (after 0x8017 (regs [(0, 3), (1, 2)])).map (fun t => (t.reg 0, t.reg 15)) = some (0xFF, 0) := by
  decide
/-- A41; A43. -/
theorem test_shl_from_VY : (after 0x812E { regs [(1, 0x81), (2, 0x40)] with qShiftY := true }).map
    (fun t => (t.reg 1, t.reg 15)) = some (0x80, 0) := by decide
theorem test_shl_into_VF : (after 0x8F2E (regs [(15, 0xC0), (2, 1)])).map (·.reg 15) = some 1 := by decide
/-- M1. -/
theorem test_ldI : (after 0xA2F0 State.reset).map (fun t => (t.i, t.pc)) = some (0x2F0, 0x202) := by decide
/-- D2: whatever byte is drawn, a zero mask gives 0. -/
theorem test_rnd_zero_mask : (nextOf (exec (.rnd 1 0) (regs [(1, 0x55)]))).map (·.reg 1) = some 0 := by
  simp [nextOf, exec, execRnd]
/-- D8; D12. -/
theorem test_drw_collision : (after 0xD011 (dot 63 31 (dot 0 31 (bytesAt 0x300 [0xC0]
    { regs [(0, 63), (1, 31)] with i := 0x300 })))).map
    (fun t => (t.fb, t.reg 15, t.redraw)) = some (Framebuffer.blank, 1, true) := by decide
theorem test_drw_wraps_origin : (after 0xD012 (bytesAt 0x300 [0x80, 0x01]
    { regs [(0, 0x40), (1, 0x21), (15, 1)] with i := 0x300 })).map
    (fun t => (rowOn 1 t, rowOn 2 t, rowOn 0 t, t.reg 15)) = some ([0], [7], [], 0) := by decide
/-- K1, K2; K5. -/
theorem test_skp : (after 0xE19E (pressed [5] (regs [(1, 5)]))).map (·.pc) = some 0x204 ∧
    (after 0xE19E (pressed [4] (regs [(1, 5)]))).map (·.pc) = some 0x202 := by decide
theorem test_skp_low_bits : (after 0xE19E (pressed [5] (regs [(1, 0x15)]))).map (·.pc) = some 0x204 := by decide
/-- K3, K4. -/
theorem test_sknp : (after 0xE1A1 (pressed [5] (regs [(1, 5)]))).map (·.pc) = some 0x202 ∧
    (after 0xE1A1 (pressed [4] (regs [(1, 5)]))).map (·.pc) = some 0x204 := by decide
/-- K17. -/
theorem test_ldVxDt_before_tick : (after 0xF107 { State.reset with dt := 5, cyclesPerTick := 1 }).map
    (fun t => (t.reg 1, t.dt)) = some (5, 4) := by decide
/-- K16. -/
theorem test_ldDtVx_then_tick : (after 0xF115 { regs [(1, 3)] with cyclesPerTick := 1 }).map (·.dt) = some 2 := by decide
/-- K15, K18. -/
theorem test_ldStVx_zero_is_no_expiry : (after 0xF118 { State.reset with st := 1 }).map
    (fun t => (t.st, t.soundExpiry)) = some (0, false) := by decide
theorem test_ldStVx_one_expires : (after 0xF118 { regs [(1, 1)] with cyclesPerTick := 1 }).map
    (fun t => (t.st, t.soundExpiry)) = some (0, true) := by decide
/-- K9; K19. -/
theorem test_ldVxK_least : (after 0xF30A (pressed [7, 9] State.reset)).map (fun t => (t.reg 3, t.pc)) = some (7, 0x202) := by
  decide
theorem test_ldVxK_waits_and_ticks : (after 0xF30A { State.reset with dt := 1, st := 1, cyclesPerTick := 1 }).map
    (fun t => (t.pc, t.dt, t.st, t.soundExpiry)) = some (0x200, 0, 0, true) := by decide
/-- M6; M7. -/
theorem test_addI_wraps : (after 0xF21E { regs [(2, 0xFF)] with i := 0xF01 }).map
    (fun t => (t.i, t.reg 15)) = some (0, 1) := by decide
theorem test_addI_exactly_FFF : (after 0xF21E { regs [(2, 0xFF), (15, 1)] with i := 0xF00 }).map
    (fun t => (t.i, t.reg 15)) = some (0xFFF, 0) := by decide
/-- M11; M13. -/
theorem test_ldF : (after 0xF029 (regs [(0, 0x0F)])).map (·.i) = some 0x4B := by decide
theorem test_ldF_whole_byte : (after 0xF029 (regs [(0, 0xFF)])).map (·.i) = some 0x4FB := by decide
/-- M15; M20. -/
theorem test_ldB : (after 0xF033 { regs [(0, 157)] with i := 0x2F0 }).map
    (fun t => (t.memRead 0x2F0, t.memRead 0x2F1, t.memRead 0x2F2, t.i)) = some (1, 5, 7, 0x2F0) := by decide
theorem test_ldB_wraps : (after 0xF033 { regs [(0, 234)] with i := 0xFFE }).map
    (fun t => (t.memRead 0xFFE, t.memRead 0xFFF, t.memRead 0, t.i)) = some (2, 3, 4, 0xFFE) := by decide
/-- M23; M25. -/
theorem test_storeRegs_V0_only : (after 0xF055 { regs [(0, 0xAA), (1, 0xBB)] with i := 0x300, qIncI := true }).map
    (fun t => (t.memRead 0x300, t.memRead 0x301, t.i)) = some (0xAA, 0, 0x301) := by decide
theorem test_storeRegs_wraps : (after 0xF255 { regs [(0, 0x11), (1, 0x22), (2, 0x33)] with i := 0xFFF, qIncI := true }).map
    (fun t => (t.memRead 0xFFF, t.memRead 0, t.memRead 1, t.i)) = some (0x11, 0x22, 0x33, 2) := by decide
/-- M28; M29. -/
theorem test_loadRegs : (after 0xF265 (bytesAt 0x300 [1, 5, 7] { regs [(3, 0x99)] with i := 0x300, qIncI := true })).map
    (fun t => ((t.reg 0, t.reg 1, t.reg 2), t.reg 3, t.i)) = some ((1, 5, 7), 0x99, 0x303) := by decide
theorem test_loadRegs_all : (after 0xFF65 State.reset).map (fun t => (t.v.toList, t.i)) =
    some ([0xF0, 0x90, 0x90, 0x90, 0xF0, 0x20, 0x60, 0x20, 0x20, 0x70, 0xF0, 0x10, 0xF0, 0x80, 0xF0, 0xF0], 0) := by decide

/-! ### Fatal conditions, ticks and the host's operations -/

/-- S11: an unknown word. -/
theorem test_unknown_word : (after 0x5121 (regs [(1, 7), (2, 7)])).map
    (fun t => (t.mode, t.err, t.errOp, t.pc, t.faultOut)) =
    some (.fault, .unknownOpcode, 0x5121, 0x200, .unknownOpcode) := by decide
/-- T6: the full stack. -/
theorem test_call_full : (after 0x2400 { State.reset with sp := 32 }).map
    (fun t => (t.mode, t.err, t.errOp, t.pc, t.sp.val)) = some (.fault, .stackOverflow, 0x2400, 0x200, 32) := by decide
/-- T8: the empty stack. -/
theorem test_ret_empty : (after 0x00EE State.reset).map (fun t => (t.mode, t.err, t.errOp, t.pc, t.sp.val)) =
    some (.fault, .stackUnderflow, 0x00EE, 0x200, 0) := by decide
/-- K23: a faulting step does not tick. -/
theorem test_fault_does_not_tick : (after 0x0000 { State.reset with dt := 1, st := 1, cyclesPerTick := 1 }).map
    (fun t => (t.st, t.dt, t.tickCtr, t.soundExpiry)) = some (1, 1, 0, false) := by decide
/-- F1: with no program the first step faults; the second changes nothing and returns the code again. -/
theorem test_no_program : nextOf (step State.reset) = some (State.reset.raiseFatal .unknownOpcode 0) ∧
    nextOf (step (State.reset.raiseFatal .unknownOpcode 0)) = some (State.reset.raiseFatal .unknownOpcode 0) := by decide
/-- F4: reset after a fault keeps the quirk bits. -/
theorem test_reset_recovers :
    ({ (regs [(0, 5)]).raiseFatal .stackOverflow 0x2200 with sp := 32, qIncI := true } : State).doReset =
    { State.reset with qIncI := true } := by decide
/-- F6: an image of odd length, and the word fetched from it. -/
theorem test_load : (nextOf (State.reset.load [0xAA, 0xBB, 0xCC])).map
    (fun t => (t.memRead 0x1FF, t.memRead 0x202, t.memRead 0x203, t.fetchWord)) = some (0, 0xCC, 0, 0xAABB) := by decide
/-- R6: a ratio of 0 has no behaviour. -/
theorem test_construct_zero : nextOf (State.construct 0 defaultFont false false State.reset.keys) = none := by decide
/-- R101, R6, R217: a machine built with another font table has it at 0 to 79 after construction and after a reset. -/
theorem test_construct_font : (nextOf (State.construct 9 (Vector.replicate 80 0xA5) false true State.reset.keys)).map
    (fun t => ((t.memRead 0, t.memRead 79, t.memRead 80), ((t.storeBytes 0 [1]).doReset).memRead 0, (t.cyclesPerTick : Nat),
      t.qShiftY, t.qIncI)) = some ((0xA5, 0xA5, 0), 0xA5, 9, false, true) := by decide
/-- F7: the quirk bits changed between two steps; the second argument is `Q_INC_I` (R100). -/
theorem test_setQuirks : (after 0x8126 ((regs [(1, 5), (2, 0x0A)]).setQuirks true false)).map
    (fun t => (t.reg 1, t.reg 15, t.qIncI)) = some (5, 0, false) := by decide
/-- R102: a run ends at a jump to itself and in FAULT mode, not in a key wait and not at another jump. -/
theorem test_runEnded : (placed 0x1200 State.reset).runEnded = true ∧
    (State.reset.raiseFatal .unknownOpcode 0).runEnded = true ∧ (placed 0x1202 State.reset).runEnded = false ∧
    (placed 0xF30A State.reset).runEnded = false := by decide
/-- R39, R190: the accessors show SP and the code at their own widths. -/
theorem test_diagnostics : ({ State.reset with sp := 32, mode := .fault, err := .stackUnderflow } : State).diagnostics.sp = 32 ∧
    ({ State.reset with mode := .fault, err := .stackUnderflow } : State).diagnostics.err = 3 := by decide
/-- R216: the first row of glyph F and the byte after the font. -/
theorem test_font : State.reset.memRead 75 = 0xF0 ∧ State.reset.memRead 79 = 0x80 ∧ State.reset.memRead 80 = 0 := by decide

/-! ### The statements' hypotheses are met: one theorem per statement that has some -/

/-- A state with the word at its PC, for the statements over steps. -/
abbrev ready (w : Word) : State := placed w State.reset

/-- A full stack. -/
abbrev full : State := { State.reset with sp := 32 }

/-- A machine that ticks on every completed step, with both timers about to expire. -/
abbrev ticking : State := { State.reset with dt := 1, st := 1, cyclesPerTick := 1 }

theorem test_witness_EncodeUndoesDecode : decode 0x8126 = some (.shr 1 2) ∧ decode 0x00E0 = some .cls := by decide
theorem test_witness_DecodeFollowsTheOpcodeMap : decode 0xF265 = some (.loadRegs 2) ∧
    (Instr.loadRegs 0).row ∈ opcodeMap ∧ (0xF265 : Word) &&& (Instr.loadRegs 0).row.mask = (Instr.loadRegs 0).row.fixed := by decide
theorem test_witness_NoWordMatchesTwoRows : (Instr.cls).row ∈ opcodeMap ∧
    (0x00E0 : Word) &&& (Instr.cls).row.mask = (Instr.cls).row.fixed := by decide
theorem test_witness_UnknownWordsByFamily : decode 0x00FF = none ∧ decode 0x500F = none ∧ decode 0x8008 = none ∧
    decode 0x800F = none ∧ decode 0x9001 = none ∧ decode 0xE000 = none ∧ decode 0xF066 = none := by decide
theorem test_witness_StepRunsTheDecodedInstruction : (ready 0x6A2A).mode = .run ∧
    decode (ready 0x6A2A).fetchWord = some (.ldImm 10 0x2A) := by decide
theorem test_witness_StoredInstructionIsRunNext : State.reset.mode = .run ∧
    ∃ t, exec (.ldImm 10 0x2A) (State.reset.withFetchWord 16 (encode (.ldImm 10 0x2A)).toNat).beginStep = .next t :=
  ⟨rfl, _, rfl⟩
theorem test_witness_RedrawExactlyAfterClearOrDraw :
    (after 0x00E0 State.reset).map (·.redraw) = some true ∧ (after 0xD010 State.reset).map (·.redraw) = some true ∧
    (after 0x1200 State.reset).map (·.redraw) = some false ∧ (after 0x0000 State.reset).map (·.redraw) = some false := by decide
theorem test_witness_CompletedStepClocksTheTimers : ∃ m t,
    (placed 0x6A2A ticking).mode = .run ∧ decode (placed 0x6A2A ticking).fetchWord = some (.ldImm 10 0x2A) ∧
    exec (.ldImm 10 0x2A) (placed 0x6A2A ticking).beginStep = .next m ∧ m.mode = .run ∧
    step (placed 0x6A2A ticking) = .next t ∧ m.st = 1 ∧
    (placed 0x6A2A ticking).tickCtr + 1 = ((placed 0x6A2A ticking).cyclesPerTick : Nat) ∧
    (ready 0x6A2A).tickCtr + 1 ≠ ((ready 0x6A2A).cyclesPerTick : Nat) :=
  ⟨_, _, by decide, by decide, rfl, rfl, rfl, rfl, by decide, by decide⟩
theorem test_witness_TickCounterCountsCompletedSteps : ∃ t, (placed 0x1200 ticking).tickCtr < ((placed 0x1200 ticking).cyclesPerTick : Nat) ∧
    (placed 0x1200 ticking).mode = .run ∧ Host.Core.run Sys2Proof.core 1 (placed 0x1200 ticking) = .next t ∧ t.mode = .run :=
  ⟨_, by decide, by decide, rfl, by decide⟩
theorem test_witness_SelfJumpIsStable : (ready 0x1200).mode = .run ∧ decode (ready 0x1200).fetchWord = some (.jp 0x200) ∧
    (ready 0x1200).pc.toNat = (0x200 : Address).toNat := by decide
theorem test_witness_PcPassesTheTopInThreeWaysOnly :
    (after 0xBFFF (regs [(0, 1)])).map (·.pc) = some 0x1000 ∧
    (after 0x3000 { State.reset with pc := 0xFFC }).map (·.pc) = some 0x1000 ∧
    (after 0x6A55 { State.reset with pc := 0xFFE }).map (·.pc) = some 0x1000 ∧
    (after 0x3000 { State.reset with pc := 0xFFF }).map (·.pc) = some 0x1003 ∧
    (after 0x00EE { State.reset with sp := 1, stack := State.reset.stack.set 0 0xFFE }).map (·.pc) = some 0x1000 ∧
    (after 0x1FFF { State.reset with pc := 0x1000 }).map (·.pc) = some 0xFFF ∧
    (after 0x2234 { State.reset with pc := 0x1000, sp := 31 }).map (·.pc) = some 0x234 := by decide
theorem test_witness_FullCallAndEmptyReturnMoveNothing : full.sp.val = 32 ∧ State.reset.sp.val = 0 := by decide
theorem test_witness_FatalConditionsAreExactlyThree :
    decode (ready 0xFFFF).fetchWord = none ∧ (after 0xFFFF State.reset).map (·.err) = some .unknownOpcode ∧
    (after 0x2400 full).map (·.err) = some .stackOverflow ∧ (after 0x00EE State.reset).map (·.err) = some .stackUnderflow ∧
    (after 0x2400 { State.reset with sp := 31 }).map (·.mode) = some .run := by decide
theorem test_witness_FatalStepLatchesAndKeepsTheRest : ∃ t, (placed 0x2400 full).mode = .run ∧
    step (placed 0x2400 full) = .next t ∧ t.mode = .fault := ⟨_, rfl, rfl, by decide⟩
theorem test_witness_FaultModeStepIsInert : (State.reset.raiseFatal .unknownOpcode 0).mode = .fault := rfl
theorem test_witness_OnlyResetLeavesFaultMode : ∃ t, hostOp .reset (State.reset.raiseFatal .unknownOpcode 0) = .next t ∧
    t.mode = .run := ⟨_, rfl, rfl⟩
theorem test_witness_ReturnGoesPastTheCall : 0 < full.sp.val ∧ ((31 : Fin 32).val + 1 = full.sp.val) := by decide
theorem test_witness_CallPushesItsOwnAddress : State.reset.sp.val < 32 ∧ ({ State.reset with sp := 31 } : State).sp.val < 32 := by
  decide
theorem test_witness_CallThenReturnComesBack : ({ State.reset with sp := 31 } : State).sp.val < 32 ∧
    (30 : Fin 32).val < ({ State.reset with sp := 31 } : State).sp.val := by decide
theorem test_witness_SkipsOnKey : (5 : Reg).val = ((regs [(1, 0xF5)]).reg 1).toNat % 16 ∧
    (pressed [5] (regs [(1, 0xF5)])).key 5 = true ∧ (pressed [4] (regs [(1, 0xF5)])).key 5 = false := by decide
theorem test_witness_AddSetsCarry : 256 ≤ ((regs [(0, 0xFF), (1, 1)]).reg 0).toNat + ((regs [(0, 0xFF), (1, 1)]).reg 1).toNat ∧
    ¬256 ≤ ((regs [(0, 0xFF)]).reg 0).toNat + ((regs [(0, 0xFF)]).reg 1).toNat ∧ (0 : Reg) ≠ vF := by decide
theorem test_witness_SubtractSetsNoBorrow : ((regs [(0, 5), (1, 5)]).reg 1).toNat ≤ ((regs [(0, 5), (1, 5)]).reg 0).toNat ∧
    ¬((regs [(0, 5), (1, 6)]).reg 1).toNat ≤ ((regs [(0, 5), (1, 6)]).reg 0).toNat ∧ (0 : Reg) ≠ vF := by decide
theorem test_witness_ShiftsByOneBit :
    (5 : Byte) = (if (regs [(1, 5), (2, 10)]).qShiftY then (regs [(1, 5), (2, 10)]).reg 2 else (regs [(1, 5), (2, 10)]).reg 1) ∧
    (1 : Reg) ≠ vF ∧ (128 ≤ (0x80 : Byte).toNat) ∧ ¬128 ≤ (0x7F : Byte).toNat := by decide
theorem test_witness_OnlyListedRegistersAreWritten : ∃ t, exec (.addReg 0 1) State.reset = .next t ∧ (1 : Reg) ∉ (Instr.addReg 0 1).writes :=
  ⟨_, rfl, by decide⟩
theorem test_witness_FlagWritersLeaveZeroOrOne : ∃ t, exec (.addI 2) State.reset = .next t ∧ (Instr.addI 2).writesFlag = true :=
  ⟨_, rfl, rfl⟩
theorem test_witness_EachStoreHasItsOwnWriters : ∃ t, exec (.jp 0x234) State.reset = .next t ∧ (∀ x, Instr.jp 0x234 ≠ .ldB x) ∧
    (∀ x, Instr.jp 0x234 ≠ .storeRegs x) ∧ (∀ n, Instr.jp 0x234 ≠ .call n) ∧ Instr.jp 0x234 ≠ .ret ∧ Instr.jp 0x234 ≠ .cls ∧
    (∀ x y n, Instr.jp 0x234 ≠ .drw x y n) ∧ (∀ x, Instr.jp 0x234 ≠ .ldDtVx x) ∧ (∀ x, Instr.jp 0x234 ≠ .ldStVx x) ∧
    (∀ n, Instr.jp 0x234 ≠ .ldI n) ∧ (∀ x, Instr.jp 0x234 ≠ .addI x) ∧ (∀ x, Instr.jp 0x234 ≠ .ldF x) ∧
    ∀ x, Instr.jp 0x234 ≠ .loadRegs x := ⟨_, rfl, by simp⟩
theorem test_witness_KeysAreReadByThreeInstructionsOnly : ∃ t, exec (.ldF 0) State.reset = .next t ∧
    (∀ x, Instr.ldF 0 ≠ .skp x) ∧ (∀ x, Instr.ldF 0 ≠ .sknp x) ∧ ∀ x, Instr.ldF 0 ≠ .ldVxK x := ⟨_, rfl, by simp⟩
theorem test_witness_QuirksAreReadByTheirInstructionsOnly : ∃ t, exec (.ldF 0) State.reset = .next t ∧
    (∀ x y, Instr.ldF 0 ≠ .shr x y) ∧ (∀ x y, Instr.ldF 0 ≠ .shl x y) ∧ (∀ x, Instr.ldF 0 ≠ .storeRegs x) ∧
    ∀ x, Instr.ldF 0 ≠ .loadRegs x := ⟨_, rfl, by simp⟩
theorem test_witness_AddToIndexReportsOverflow :
    ¬0xFFF < (0xF00 : Word).toNat + (0xFF : Byte).toNat ∧ 0xFFF < (0xF01 : Word).toNat + (0xFF : Byte).toNat := by decide
theorem test_witness_BlockStorePutsRegistersAtI : (2 : Reg) ≤ 2 ∧ (0 : Reg) ≤ 15 ∧ State.reset.qIncI = false ∧
    ({ State.reset with qIncI := true } : State).qIncI = true := by decide
theorem test_witness_BlockLoadTakesRegistersFromI : (15 : Reg) ≤ 15 ∧ (0 : Reg) ≤ 0 ∧ State.reset.qIncI = false ∧
    ({ State.reset with qIncI := true } : State).qIncI = true := by decide
/-- The intervening change of every register, and the other quirk setting, as in W6. -/
theorem test_witness_BlockStoreThenLoadIsTheIdentity : ∃ t u w, exec (.storeRegs 2) (regs [(0, 0x11), (1, 0x22)]) = .next t ∧
    (∀ a, u.memRead a = t.memRead a) ∧ u.i = (regs [(0, 0x11), (1, 0x22)]).i ∧ u.reg 0 ≠ t.reg 0 ∧
    exec (.loadRegs 2) u = .next w ∧ (2 : Reg) ≤ 2 :=
  ⟨_, { ((regs [(0, 0x11), (1, 0x22)]).storeBytes 0 [0x11, 0x22, 0]) with v := State.reset.v, qIncI := true }, _,
    rfl, fun _ => rfl, rfl, by decide, rfl, by decide⟩
theorem test_witness_DrawInvertsTheCoveredPixels :
    Covers [0x80] 63 31 63 31 ∧ ¬Covers [0x80] 63 31 62 31 ∧ Covers [0x01] 63 31 6 31 := by
  refine ⟨⟨0, by decide, 0, by decide⟩, ?_, ⟨0, by decide, 7, by decide⟩⟩
  rintro ⟨row, h, col, hc, -, hx, -⟩
  omega
theorem test_witness_DrawingTwiceRestoresTheScreen : ∃ t u, exec (.drw 0 0 5) State.reset = .next t ∧
    t.reg 0 = State.reset.reg 0 ∧ exec (.drw 0 0 5) t = .next u := ⟨_, _, rfl, by decide, rfl⟩
theorem test_witness_KeyWaitTakesTheLeastPressedKey : (pressed [7, 9] State.reset).key 7 = true ∧
    (∀ j : Reg, j < 7 → (pressed [7, 9] State.reset).key j = false) ∧ (pressed [0] State.reset).key 0 = true ∧
    (pressed [15] State.reset).key 15 = true ∧ ∀ j : Reg, j < 15 → (pressed [15] State.reset).key j = false := by decide
theorem test_witness_KeyWaitWithoutKeyChangesNothing : (∀ k : Reg, (ready 0xF30A).key k = false) ∧ (ready 0xF30A).mode = .run ∧
    decode (ready 0xF30A).fetchWord = some (.ldVxK 3) := by decide
theorem test_witness_ResetLeavesTheResetValues : ∃ t, hostOp .reset full = .next t ∧ t.memRead 79 = 0x80 ∧
    t.memRead 80 = 0 ∧ t.memRead 4095 = 0 ∧ 0 < (1 : Nat) := ⟨_, rfl, by decide⟩
theorem test_witness_LoadCopiesTheImage : (List.replicate 3584 (0 : Byte)).length ≤ 3584 ∧
    3584 < (List.replicate 3585 (0 : Byte)).length := by
  rw [List.length_replicate, List.length_replicate]
  decide
theorem test_witness_StepKeepsTheInvariants : ∃ t, Legal State.reset ∧ step State.reset = .next t :=
  ⟨_, ⟨by decide, by decide, by decide, by decide, by decide, by decide⟩, rfl⟩
theorem test_witness_HostOperationsKeepTheInvariants :
    (∃ t, State.construct 1 defaultFont true false State.reset.keys = .next t) ∧
    ∃ t, Legal State.reset ∧ hostOp (.load [0x12, 0x00]) State.reset = .next t ∧ Reachable t :=
  ⟨⟨_, rfl⟩, _, ⟨by decide, by decide, by decide, by decide, by decide, by decide⟩, rfl,
    .op (o := .load [0x12, 0x00]) (.construct (ratio := 1000) (font := defaultFont) (a := false) (b := false) (ks := State.reset.keys) (by rfl)) (by rfl)⟩
theorem test_witness_EndedRunStaysEnded : (∃ t, (ready 0x1200).runEnded = true ∧ step (ready 0x1200) = .next t) ∧
    ∃ t, (State.reset.raiseFatal .unknownOpcode 0).runEnded = true ∧
      step (State.reset.raiseFatal .unknownOpcode 0) = .next t := ⟨⟨_, by decide, rfl⟩, _, by decide, rfl⟩

end Sys2Proof.Tests
end

section
/-! The decoder on the words written out, and what `reset()` and construction leave (spec/10_state.md R37;
spec/40_step_cycle.md R101; spec/70_reset_and_hazards.md R215, R217). -/

open Sys2Proof Sys2Proof.Machine

namespace Sys2Proof.Machine

/-- Memory that lists nothing reads as this machine's own reset contents (R37, R215). -/
theorem State.memRead_doReset (s : State) {a : Nat} (h : a < 4096) :
    s.doReset.memRead a = resetByte s.font a :=
  congrArg (resetByte s.font) (Nat.mod_eq_of_lt h)

/-- Each element that R37 lists is at its reset value after `reset()`, from any state (R215). -/
theorem State.doReset_resetValues (s : State) : ResetValues s.doReset where
  regs r := Vector.getElem_replicate r.isLt
  pc := rfl
  index := rfl
  stack k := Vector.getElem_replicate k.isLt
  sp := rfl
  timers := ⟨rfl, rfl⟩
  glyphs k := by rw [s.memRead_doReset (by omega), resetByte_glyph, State.doReset_font]
  memory a low high := by rw [s.memRead_doReset high, resetByte_above low]
  pixels := fbRead_blank
  counter := rfl
  latch := ⟨rfl, rfl, rfl⟩

/-- Construction with a ratio of at least 1 succeeds, with the parameters it was given (R6, R101). -/
theorem State.construct_of_pos {ratio : Nat} (positive : 0 < ratio) (font : FontTable) (shiftY incI : Bool)
    (keys : Vector Bool 16) :
    State.construct ratio font shiftY incI keys = .next { State.reset with
      cyclesPerTick := ⟨ratio, positive⟩, font := font, qShiftY := shiftY, qIncI := incI, keys := keys } :=
  dif_pos positive

/-- Construction ends with a reset (R217): the state it leaves is one that `reset()` no longer changes. -/
theorem State.doReset_of_construct {ratio : Nat} {font : FontTable} {shiftY incI : Bool} {keys : Vector Bool 16}
    {t : State} (h : State.construct ratio font shiftY incI keys = .next t) : t.doReset = t := by
  obtain ⟨_, rfl⟩ := State.construct_cases h
  rfl

end Sys2Proof.Machine

/-- Settles O1, by evaluating the decoder on each of the 23 words. -/
theorem decodesWordsWrittenFromTheMap : Obligations.DecodesWordsWrittenFromTheMap := by
  unfold Obligations.DecodesWordsWrittenFromTheMap
  decide

/-- Settles O54: `reset()` leaves the reset values in any state, and a constructed state is one that
`reset()` leaves as it is. -/
theorem resetLeavesTheResetValues : Obligations.ResetLeavesTheResetValues := by
  unfold Obligations.ResetLeavesTheResetValues
  constructor
  · rintro s t ⟨rfl⟩
    exact ⟨s.doReset_resetValues, rfl, rfl, rfl, rfl, rfl⟩
  · intro ratio font shiftY incI keys positive
    have built := State.construct_of_pos positive font shiftY incI keys
    refine ⟨_, built, ?_, rfl, rfl, rfl, rfl, rfl⟩
    exact State.doReset_of_construct built ▸ State.doReset_resetValues _

end

section
/-! What an instruction may write beside the general registers and the PC, said once (spec/10_state.md R38), and
from it the invariants of R40 over steps and host operations (spec/40_step_cycle.md R90, R91). -/

open Sys2Proof Sys2Proof.Machine

namespace Sys2Proof
namespace Machine

variable {s t : State} {i : Instr}

/-! ### The meanings with branches, read backwards -/

/-- `00EE` raises its fatal condition or moves SP and the PC (R110, R193). -/
theorem exec_ret_cases (h : exec .ret s = .next t) :
    (Fatal s .ret .stackUnderflow ∧ t = s.raiseFatal .stackUnderflow (encode .ret)) ∨
    ∃ sp pc, t = { s with sp := sp, pc := pc } := by
  by_cases empty : s.sp.val = 0
  · rw [exec_ret_empty s empty] at h
    cases h
    exact .inl ⟨.underflow empty, rfl⟩
  · rw [exec_ret_of_some s (Nat.pos_of_ne_zero empty)] at h
    cases h
    exact .inr ⟨_, _, rfl⟩

/-- `2NNN` raises its fatal condition or moves the stack, SP and the PC (R112, R192). -/
theorem exec_call_cases {nnn : Address} (h : exec (.call nnn) s = .next t) :
    (Fatal s (.call nnn) .stackOverflow ∧ t = s.raiseFatal .stackOverflow (encode (.call nnn))) ∨
    ∃ stack sp pc, t = { s with stack := stack, sp := sp, pc := pc } := by
  by_cases full : s.sp.val = 32
  · rw [exec_call_full s nnn full] at h
    cases h
    exact .inl ⟨.overflow full, rfl⟩
  · rw [exec_call_of_room s nnn (by have := s.sp.isLt; omega)] at h
    cases h
    exact .inr ⟨_, _, _, rfl⟩

/-- `FX0A` changes nothing, or writes VX and advances (R177). -/
theorem exec_ldVxK_cases {x : Reg} (h : exec (.ldVxK x) s = .next t) :
    t = s ∨ ∃ b, t = (s.setReg x b).advance 2 := by
  simp only [exec, execLdVxK] at h
  split at h
  · cases h
    exact .inr ⟨_, rfl⟩
  · cases h
    exact .inl rfl

/-- The quirk increment leaves the state or is one reduced write of I (R23, R154). -/
theorem State.bumpI_cases (s : State) (x : Reg) : s.bumpI x = s ∨ ∃ n, s.bumpI x = s.setI n := by
  unfold State.bumpI
  split
  · exact .inr ⟨_, rfl⟩
  · exact .inl rfl

/-- What an instruction leaves behind, by the stores it writes beside the general registers, the PC and the
draw counter: each store of R38 stands in the cases of its own writers only. -/
inductive Effect (s : State) : Instr → State → Prop where
  /-- a fatal condition, which discards every write (R199) -/
  | fatal {i : Instr} {code} : Fatal s i code → Effect s i (s.raiseFatal code (encode i))
  /-- none of the stores -/
  | registers {i : Instr} (v pc rnd) : Effect s i { s with v := v, pc := pc, rndCtr := rnd }
  | call {nnn} (stack sp pc) : Effect s (.call nnn) { s with stack := stack, sp := sp, pc := pc }
  | ret (sp pc) : Effect s .ret { s with sp := sp, pc := pc }
  | cls (fb pc) : Effect s .cls { s with fb := fb, redraw := true, pc := pc }
  | drw {x y n} (fb v pc) : Effect s (.drw x y n) { s with fb := fb, redraw := true, v := v, pc := pc }
  | ldDtVx {x} (b pc) : Effect s (.ldDtVx x) { s with dt := b, pc := pc }
  | ldStVx {x} (b pc) : Effect s (.ldStVx x) { s with st := b, pc := pc }
  | ldI {nnn} (n pc) : Effect s (.ldI nnn) { s with i := BitVec.ofNat 16 (n % 0x1000), pc := pc }
  | addI {x} (n v pc) : Effect s (.addI x) { s with i := BitVec.ofNat 16 (n % 0x1000), v := v, pc := pc }
  | ldF {x} (n pc) : Effect s (.ldF x) { s with i := BitVec.ofNat 16 (n % 0x1000), pc := pc }
  | loadRegs {x} (n v pc) : Effect s (.loadRegs x) { s with i := BitVec.ofNat 16 (n % 0x1000), v := v, pc := pc }
  | ldB {x} (a bs pc) : Effect s (.ldB x) { s.storeBytes a bs with pc := pc }
  | storeRegs {x} (a bs pc) : Effect s (.storeRegs x) { s.storeBytes a bs with pc := pc }
  | storeRegsIndex {x} (a bs n pc) : Effect s (.storeRegs x) { (s.storeBytes a bs).setI n with pc := pc }

/-- Every instruction has one of these effects. -/
theorem exec_effect (h : exec i s = .next t) : Effect s i t := by
  cases i with
  | ret =>
    obtain ⟨f, rfl⟩ | ⟨sp, pc, rfl⟩ := exec_ret_cases h
    · exact .fatal f
    · exact .ret sp pc
  | call nnn =>
    obtain ⟨f, rfl⟩ | ⟨stack, sp, pc, rfl⟩ := exec_call_cases h
    · exact .fatal f
    · exact .call stack sp pc
  | ldVxK x =>
    obtain rfl | ⟨b, rfl⟩ := exec_ldVxK_cases h
    · exact .registers t.v t.pc t.rndCtr
    · exact .registers _ _ _
  | storeRegs x =>
    cases h
    obtain e | ⟨n, e⟩ := (s.storeBytes s.i.toNat (s.regsUpTo x)).bumpI_cases x
    · rw [e]; exact .storeRegs _ _ _
    · rw [e]; exact .storeRegsIndex _ _ _ _
  | loadRegs x =>
    cases h
    obtain e | ⟨n, e⟩ := (s.loadUpTo x).bumpI_cases x
    · rw [e, State.loadUpTo]; exact .registers _ _ _
    · rw [e, State.loadUpTo, State.setI]; exact .loadRegs n _ _
  | cls => cases h; exact .cls _ _
  | drw x y n => cases h; exact .drw _ _ _
  | ldDtVx x => cases h; exact .ldDtVx _ _
  | ldStVx x => cases h; exact .ldStVx _ _
  | ldI nnn => cases h; exact .ldI _ _
  | addI x => cases h; exact .addI _ _ _
  | ldF x => cases h; exact .ldF _ _
  | ldB x => cases h; exact .ldB _ _ _
  | _ => cases h; exact .registers _ _ _

/-! ### The invariants of R40 -/

/-- An instruction leaves I or writes it reduced modulo 0x1000 (R23). -/
theorem exec_index (h : exec i s = .next t) : t.i = s.i ∨ ∃ n, t.i = BitVec.ofNat 16 (n % 0x1000) := by
  cases exec_effect h with
  | ldI n => exact .inr ⟨n, rfl⟩
  | addI n => exact .inr ⟨n, rfl⟩
  | ldF n => exact .inr ⟨n, rfl⟩
  | loadRegs n => exact .inr ⟨n, rfl⟩
  | storeRegsIndex _ _ n => exact .inr ⟨n, rfl⟩
  | _ => exact .inl rfl

/-- An instruction leaves memory or does one run of stores to it (R54). -/
theorem exec_mem (h : exec i s = .next t) :
    t.mem = s.mem ∨ ∃ a bs, t.mem = Memory.storeBytes s.font s.mem a bs := by
  cases exec_effect h with
  | ldB a bs => exact .inr ⟨a, bs, rfl⟩
  | storeRegs a bs => exact .inr ⟨a, bs, rfl⟩
  | storeRegsIndex a bs => exact .inr ⟨a, bs, rfl⟩
  | _ => exact .inl rfl

theorem exec_index_le (h : exec i s = .next t) (inRange : s.i.toNat ≤ 0xFFF) : t.i.toNat ≤ 0xFFF := by
  obtain e | ⟨n, e⟩ := exec_index h
  · rwa [e]
  · rw [e, BitVec.toNat_ofNat]
    omega

theorem exec_mem_wf (h : exec i s = .next t) (canonical : Memory.wf s.font s.mem) : Memory.wf s.font t.mem := by
  obtain e | ⟨a, bs, e⟩ := exec_mem h
  · rwa [e]
  · rw [e]
    exact Memory.storeBytes_wf bs canonical a

/-- No instruction raises the code 0 (R190). -/
theorem Fatal.code_ne_none {code : ErrCode} (f : Fatal s i code) : code ≠ .none := by
  cases f <;> decide

end Machine

namespace Legal

variable {s t : State} {i : Instr}

/-- Fault entry latches a code and leaves RUN mode (R199). -/
theorem raiseFatal (h : Legal s) {code : ErrCode} (raised : code ≠ .none) (w : Word) :
    Legal (s.raiseFatal code w) where
  index := h.index
  counter := h.counter
  latch := ⟨fun _ => rfl, fun _ => raised⟩
  word := nofun
  output := nofun
  memory := h.memory

/-- An inert step returns the latched code, in FAULT mode (R95). -/
theorem inertStep (h : Legal s) (stopped : s.mode = .fault) : Legal s.inertStep where
  index := h.index
  counter := h.counter
  latch := h.latch
  word := h.word
  output running := absurd (stopped.symm.trans running) nofun
  memory := h.memory

theorem beginStep (h : Legal s) : Legal s.beginStep where
  index := h.index
  counter := h.counter
  latch := h.latch
  word := h.word
  output _ := rfl
  memory := h.memory

/-- An instruction keeps the invariants: a fatal condition latches its code, and any other execution touches I
and memory alone of what they speak of. -/
theorem of_exec (h : Legal s) (run : exec i s = .next t) : Legal t := by
  obtain ⟨code, f, rfl⟩ | same := exec_cases run
  · exact h.raiseFatal f.code_ne_none _
  · exact {
      index := exec_index_le run h.index
      counter := by rw [same.tickCtr, same.cyclesPerTick]; exact h.counter
      latch := by rw [same.err, same.mode]; exact h.latch
      word := by rw [same.mode, same.errOp]; exact h.word
      output := by rw [same.mode, same.faultOut]; exact h.output
      memory := by rw [same.font]; exact exec_mem_wf run h.memory }

/-- The Timer Driver keeps its counter below the ratio: it returns to 0 when the next count would reach it (R202). -/
theorem endStep (h : Legal s) : Legal s.endStep := by
  have counter : s.endStep.tickCtr < (s.cyclesPerTick : Nat) := by
    have below := h.counter
    obtain ⟨-, e⟩ | ⟨-, -, e⟩ | ⟨-, notYet, e⟩ := s.endStep_cases
    · rwa [e]
    · rw [e]
      exact s.cyclesPerTick.pos
    · rw [e]
      show s.tickCtr + 1 < _
      omega
  rw [s.endStep_eq]
  exact ⟨h.index, counter, h.latch, h.word, h.output, h.memory⟩

/-- A step keeps the invariants, in each of the three things it can do (R91). -/
theorem of_step (h : Legal s) (run : step s = .next t) : Legal t := by
  obtain ⟨stopped, rfl⟩ | ⟨-, -, rfl⟩ | ⟨i, m, -, -, ran, rfl⟩ := step_cases run
  · exact h.inertStep stopped
  · exact h.raiseFatal (by decide) _
  · exact (h.beginStep.of_exec ran).endStep

/-- No invariant speaks of the quirk bits, the keys or the framebuffer. -/
theorem hostElements (h : Legal s) (shiftY incI : Bool) (keys : Vector Bool 16) (fb : Framebuffer) :
    Legal { s with qShiftY := shiftY, qIncI := incI, keys := keys, fb := fb } :=
  ⟨h.index, h.counter, h.latch, h.word, h.output, h.memory⟩

theorem storeBytes (h : Legal s) (a : Nat) (bs : List Byte) : Legal (s.storeBytes a bs) :=
  ⟨h.index, h.counter, h.latch, h.word, h.output, s.storeBytes_mem_wf h.memory a bs⟩

/-- `reset()` meets the invariants, from any state (R37). -/
theorem doReset (s : State) : Legal s.doReset where
  index := Nat.zero_le _
  counter := s.cyclesPerTick.pos
  latch := ⟨fun coded => absurd rfl coded, nofun⟩
  word _ := rfl
  output _ := rfl
  memory := s.doReset_mem_wf

/-- Every operation of the host keeps the invariants (R90). -/
theorem of_hostOp (h : Legal s) {o : HostOp} (run : hostOp o s = .next t) : Legal t := by
  cases o with
  | reset => cases run; exact doReset s
  | step => exact h.of_step run
  | setQuirks shiftY incI => cases run; exact h.hostElements shiftY incI s.keys s.fb
  | keys keys => cases run; exact h.hostElements s.qShiftY s.qIncI keys s.fb
  | pixel x y b => cases run; exact h.hostElements s.qShiftY s.qIncI s.keys _
  | load bytes =>
    change s.load bytes = _ at run
    by_cases fits : bytes.length ≤ 3584
    · rw [State.load_of_fits s fits] at run
      cases run
      exact h.storeBytes _ bytes
    · rw [State.load_too_long s (Nat.lt_of_not_le fits)] at run
      cases run

end Legal
end Sys2Proof

/-- Settles O57, by the three things a step can do. -/
theorem stepKeepsTheInvariants : Obligations.StepKeepsTheInvariants := by
  unfold Obligations.StepKeepsTheInvariants
  exact fun _ _ legal run => legal.of_step run

/-- Settles O58: a constructed state is one that `reset()` leaves as it is, and every host operation keeps the
invariants. -/
theorem hostOperationsKeepTheInvariants : Obligations.HostOperationsKeepTheInvariants := by
  unfold Obligations.HostOperationsKeepTheInvariants
  constructor
  · intro ratio font shiftY incI keys t built
    exact State.doReset_of_construct built ▸ Legal.doReset t
  · exact fun _ _ _ legal run => legal.of_hostOp run

/-- Settles O56: the reset state is one that `reset()` leaves as it is. -/
theorem resetStateIsLegal : Obligations.ResetStateIsLegal := by
  unfold Obligations.ResetStateIsLegal
  have fixed : State.reset.doReset = State.reset := rfl
  exact fixed ▸ Legal.doReset State.reset

end

section
/-! The registers and stores an instruction writes and the inputs it reads (spec/10_state.md R20, R21, R28, R33,
R38), what the end of a step does to the timers (spec/60_exceptions.md R202, R203), and the host's writes
(spec/20_memory.md R62; spec/40_step_cycle.md R100). -/

open Sys2Proof Sys2Proof.Machine

namespace Sys2Proof

variable {s t : State} {i : Instr}

theorem OnlyRegsPc.reg_eq {ws : List Reg} (h : OnlyRegsPc ws s t) {r : Reg} (unlisted : r ∉ ws) :
    t.reg r = s.reg r := by
  obtain ⟨-, regs, -⟩ := h
  exact regs r unlisted

/-- The instructions that read the keys (R33). -/
def Instr.readsKeys : Instr → Bool
  | .skp _ | .sknp _ | .ldVxK _ => true
  | _ => false

/-- The instructions that read the shift quirk (R28). -/
def Instr.readsShiftQuirk : Instr → Bool
  | .shr _ _ | .shl _ _ => true
  | _ => false

/-- The instructions that read the index quirk (R28). -/
def Instr.readsIndexQuirk : Instr → Bool
  | .storeRegs _ | .loadRegs _ => true
  | _ => false

theorem Instr.readsKeys_iff :
    i.readsKeys = true ↔ (∃ x, i = .skp x) ∨ (∃ x, i = .sknp x) ∨ ∃ x, i = .ldVxK x := by
  cases i <;> simp [Instr.readsKeys]

theorem Instr.readsShiftQuirk_iff : i.readsShiftQuirk = true ↔ (∃ x y, i = .shr x y) ∨ ∃ x y, i = .shl x y := by
  cases i <;> simp [Instr.readsShiftQuirk]

theorem Instr.readsIndexQuirk_iff : i.readsIndexQuirk = true ↔ (∃ x, i = .storeRegs x) ∨ ∃ x, i = .loadRegs x := by
  cases i <;> simp [Instr.readsIndexQuirk]

namespace Machine

/-! ### Writes -/

/-- An instruction leaves the general registers that the access table does not list for it (R20). -/
theorem exec_reg_of_unlisted (h : exec i s = .next t) {r : Reg} (unlisted : r ∉ i.writes) : t.reg r = s.reg r := by
  cases i with
  | ret => obtain ⟨-, rfl⟩ | ⟨sp, pc, rfl⟩ := exec_ret_cases h <;> rfl
  | call nnn => obtain ⟨-, rfl⟩ | ⟨stack, sp, pc, rfl⟩ := exec_call_cases h <;> rfl
  | ldVxK x =>
    obtain rfl | ⟨b, rfl⟩ := exec_ldVxK_cases h
    · rfl
    · exact (onlyRegsPc_setReg s x b 2).reg_eq unlisted
  | ldImm x | addImm x | ldReg x | orReg x | andReg x | xorReg x | ldVxDt x =>
    cases h; exact (onlyRegsPc_setReg s x _ 2).reg_eq unlisted
  | rnd x => cases h; exact (onlyRegsPc_setReg s.countDraw x _ 2).reg_eq unlisted
  | addReg x | sub x | shr x | subn x | shl x =>
    cases h; exact (onlyRegsPc_setResultFlag s x _ 2).reg_eq unlisted
  | addI => cases h; exact (onlyRegsPc_setReg (s.setI _) vF _ 2).reg_eq unlisted
  | drw => cases h; exact (onlyRegsPc_setReg (s.setFb _) vF _ 2).reg_eq unlisted
  | loadRegs x =>
    have above : ¬r ≤ x := by simpa [Instr.writes] using unlisted
    cases h
    simp [above]
  | storeRegs x => cases h; simp
  | _ => cases h; rfl

theorem State.reg_setReg_same (s : State) (x : Reg) (b : Byte) : (s.setReg x b).reg x = b := by
  rw [State.reg_setReg, if_pos rfl]

/-- A flag writer's last write to a register is a flag value in VF (R21, R94, R142). -/
theorem exec_flag (h : exec i s = .next t) (writer : i.writesFlag = true) : ∃ b, t.reg vF = flagByte b := by
  cases i with
  | addReg | sub | shr | subn | shl | drw | addI => cases h; exact ⟨_, State.reg_setReg_same _ vF _⟩
  | _ => cases writer

/-- No instruction writes the keys, the quirk bits or the parameters (R28, R33, R36). -/
theorem exec_inputs (h : exec i s = .next t) :
    t.keys = s.keys ∧ t.qShiftY = s.qShiftY ∧ t.qIncI = s.qIncI ∧ t.cyclesPerTick = s.cyclesPerTick ∧
      t.font = s.font := by
  obtain ⟨code, -, rfl⟩ | same := exec_cases h
  · exact ⟨rfl, rfl, rfl, rfl, rfl⟩
  · exact ⟨same.keys, same.qShiftY, same.qIncI, same.cyclesPerTick, same.font⟩

/-! ### Reads of the inputs -/

/-- The state with other keys and quirk bits, as the host writes them (R33, R100). -/
abbrev State.withInputs (s : State) (keys : Vector Bool 16) (shiftY incI : Bool) : State :=
  (s.hostKeys keys).setQuirks shiftY incI

theorem State.bumpI_withInputs (s : State) (x : Reg) (keys : Vector Bool 16) (shiftY : Bool) :
    (s.withInputs keys shiftY s.qIncI).bumpI x = (s.bumpI x).withInputs keys shiftY s.qIncI := by
  unfold State.bumpI
  cases s.qIncI <;> rfl

/-- An instruction does the same with other keys and quirk bits, as long as those it reads are as they were. -/
theorem exec_withInputs (h : exec i s = .next t) {keys : Vector Bool 16} {shiftY incI : Bool}
    (sameKeys : i.readsKeys = true → keys = s.keys) (sameShift : i.readsShiftQuirk = true → shiftY = s.qShiftY)
    (sameIndex : i.readsIndexQuirk = true → incI = s.qIncI) :
    exec i (s.withInputs keys shiftY incI) = .next (t.withInputs keys shiftY incI) := by
  cases i with
  | ret =>
    by_cases empty : s.sp.val = 0
    · rw [exec_ret_empty s empty] at h
      cases h
      exact exec_ret_empty _ empty
    · rw [exec_ret_of_some s (Nat.pos_of_ne_zero empty)] at h
      cases h
      exact exec_ret_of_some (s.withInputs keys shiftY incI) (Nat.pos_of_ne_zero empty)
  | call nnn =>
    by_cases full : s.sp.val = 32
    · rw [exec_call_full s nnn full] at h
      cases h
      exact exec_call_full _ nnn full
    · have room : s.sp.val < 32 := by have := s.sp.isLt; omega
      rw [exec_call_of_room s nnn room] at h
      cases h
      exact exec_call_of_room (s.withInputs keys shiftY incI) nnn room
  | skp | sknp => obtain rfl := sameKeys rfl; cases h; rfl
  | ldVxK x =>
    obtain rfl := sameKeys rfl
    have scan : (s.withInputs s.keys shiftY incI).firstKey = s.firstKey := rfl
    simp only [exec, execLdVxK, scan] at h ⊢
    split at h <;> cases h <;> rfl
  | shr | shl => obtain rfl := sameShift rfl; cases h; rfl
  | storeRegs x =>
    obtain rfl := sameIndex rfl
    cases h
    have bump := (s.storeBytes s.i.toNat (s.regsUpTo x)).bumpI_withInputs x keys shiftY
    exact congrArg (fun u : State => Host.Outcome.next (u.advance 2)) bump
  | loadRegs x =>
    obtain rfl := sameIndex rfl
    cases h
    have load : (s.withInputs keys shiftY s.qIncI).loadUpTo x = (s.loadUpTo x).withInputs keys shiftY s.qIncI := rfl
    have bump := (s.loadUpTo x).bumpI_withInputs x keys shiftY
    rw [State.loadUpTo_qIncI] at bump
    rw [exec, execLoadRegs, load, bump]
    rfl
  | _ => cases h; rfl

/-! ### The end of a completed step -/

/-- An instruction that ends in RUN mode raised no fatal condition (R199), so it committed. -/
theorem exec_committed (h : exec i s = .next t) (running : t.mode = .run) : Committed s t := by
  obtain ⟨code, -, rfl⟩ | same := exec_cases h
  · cases running
  · exact same

end Machine
end Sys2Proof

/-- Settles O35, by the frame of each shape of register write. -/
theorem onlyListedRegistersAreWritten : Obligations.OnlyListedRegistersAreWritten := by
  unfold Obligations.OnlyListedRegistersAreWritten
  exact fun _ _ _ run _ unlisted => exec_reg_of_unlisted run unlisted

/-- Settles O36: the flag writers leave a flag value in VF. -/
theorem flagWritersLeaveZeroOrOne : Obligations.FlagWritersLeaveZeroOrOne := by
  unfold Obligations.FlagWritersLeaveZeroOrOne
  intro i s t writer run
  obtain ⟨b, e⟩ := exec_flag run writer
  rw [e]
  exact flagByte_zero_or_one b

/-- Settles O37, by the effects an instruction can have: each names the stores of its own row. -/
theorem eachStoreHasItsOwnWriters : Obligations.EachStoreHasItsOwnWriters := by
  unfold Obligations.EachStoreHasItsOwnWriters
  intro i s t run
  cases exec_effect run <;> simp [State.memRead]

/-- Settles O38: an instruction that is none of the three does the same with other keys. -/
theorem keysAreReadByThreeInstructionsOnly : Obligations.KeysAreReadByThreeInstructionsOnly := by
  unfold Obligations.KeysAreReadByThreeInstructionsOnly
  intro i s t keys notSkp notSknp notWait run
  have unread : ¬i.readsKeys = true := by
    rw [Instr.readsKeys_iff]
    rintro (⟨x, e⟩ | ⟨x, e⟩ | ⟨x, e⟩)
    exacts [notSkp x e, notSknp x e, notWait x e]
  obtain ⟨-, shift, index, -⟩ := exec_inputs run
  show exec i (s.withInputs keys s.qShiftY s.qIncI) = .next (t.withInputs keys t.qShiftY t.qIncI)
  rw [shift, index]
  exact exec_withInputs run (absurd · unread) (fun _ => rfl) (fun _ => rfl)

/-- Settles O39: an instruction that is none of the two readers does the same with the other setting. -/
theorem quirksAreReadByTheirInstructionsOnly : Obligations.QuirksAreReadByTheirInstructionsOnly := by
  unfold Obligations.QuirksAreReadByTheirInstructionsOnly
  intro i s t q run
  obtain ⟨keys, shift, index, -⟩ := exec_inputs run
  constructor
  · intro notShr notShl
    have unread : ¬i.readsShiftQuirk = true := by
      rw [Instr.readsShiftQuirk_iff]
      rintro (⟨x, y, e⟩ | ⟨x, y, e⟩)
      exacts [notShr x y e, notShl x y e]
    show exec i (s.withInputs s.keys q s.qIncI) = .next (t.withInputs t.keys q t.qIncI)
    rw [keys, index]
    exact exec_withInputs run (fun _ => rfl) (absurd · unread) (fun _ => rfl)
  · intro notStore notLoad
    have unread : ¬i.readsIndexQuirk = true := by
      rw [Instr.readsIndexQuirk_iff]
      rintro (⟨x, e⟩ | ⟨x, e⟩)
      exacts [notStore x e, notLoad x e]
    show exec i (s.withInputs s.keys s.qShiftY q) = .next (t.withInputs t.keys t.qShiftY q)
    rw [keys, shift]
    exact exec_withInputs run (fun _ => rfl) (fun _ => rfl) (absurd · unread)

/-- Settles O12, by what the end of a step can be after an instruction that committed. -/
theorem completedStepClocksTheTimers : Obligations.CompletedStepClocksTheTimers := by
  unfold Obligations.CompletedStepClocksTheTimers
  intro s m t i running decoded ran stillRunning stepped
  have same := exec_committed ran stillRunning
  rw [step_of_exec running decoded ran] at stepped
  cases stepped
  have quiet : m.soundExpiry = false := same.soundExpiry
  refine ⟨m.endStep_faultOut.trans same.faultOut, ?_⟩
  have counter : m.tickCtr = s.tickCtr := same.tickCtr
  have ratio : m.cyclesPerTick = s.cyclesPerTick := same.cyclesPerTick
  rw [← counter, ← ratio]
  obtain ⟨stopped, -⟩ | ⟨-, due, e⟩ | ⟨-, notDue, e⟩ := m.endStep_cases
  · cases stillRunning.symm.trans stopped
  · rw [e]
    refine ⟨fun _ => ⟨rfl, countDown_toNat _, countDown_toNat _, ?_⟩, fun notDue => absurd due notDue⟩
    rw [State.tick_soundExpiry, quiet]
    simp
  · rw [e]
    exact ⟨fun due => absurd due notDue, fun _ => ⟨rfl, rfl, rfl, quiet⟩⟩

/-- Settles O60: a pixel's coordinates are within 64 and 32, so the write is seen at that pixel alone. -/
theorem setQuirksAndHostWritesChangeTheirElementOnly : Obligations.SetQuirksAndHostWritesChangeTheirElementOnly := by
  unfold Obligations.SetQuirksAndHostWritesChangeTheirElementOnly
  refine ⟨fun s shiftY incI => ⟨_, rfl, rfl, rfl, rfl⟩, fun s keys => ⟨_, rfl, fun _ => rfl, rfl⟩,
    fun s x y b => ⟨_, rfl, fun px py => ?_, rfl⟩⟩
  rw [State.hostPixel_fb, fbRead_fbWrite]
  simp only [Nat.mod_eq_of_lt, Fin.is_lt, Fin.val_inj, eq_comm]

end

section
/-! The fields of the words that the formats build, the decoder's answer on an encoded instruction, and the step
that finds one stored at the PC (spec/20_memory.md R52, R63; spec/30_encoding.md R71, R72, R74;
spec/40_step_cycle.md R92). -/

open Sys2Proof Sys2Proof.Machine

namespace Sys2Proof

/-! ### The fields of a format's word (R71, R72) -/

@[simp] theorem fieldOp_formatA (op : Nibble) (nnn : Address) : fieldOp (formatA op nnn) = op := by
  apply BitVec.eq_of_toNat_eq
  rw [fieldOp_toNat, formatA_toNat]
  omega

@[simp] theorem fieldNNN_formatA (op : Nibble) (nnn : Address) : fieldNNN (formatA op nnn) = nnn := by
  apply BitVec.eq_of_toNat_eq
  rw [fieldNNN_toNat, formatA_toNat]
  omega

@[simp] theorem fieldOp_formatI (op : Nibble) (x : Reg) (nn : Byte) : fieldOp (formatI op x nn) = op := by
  apply BitVec.eq_of_toNat_eq
  rw [fieldOp_toNat, formatI_toNat]
  omega

@[simp] theorem fieldX_formatI (op : Nibble) (x : Reg) (nn : Byte) : fieldX (formatI op x nn) = x := by
  apply Fin.ext
  rw [fieldX_val, formatI_toNat]
  omega

@[simp] theorem fieldNN_formatI (op : Nibble) (x : Reg) (nn : Byte) : fieldNN (formatI op x nn) = nn := by
  apply BitVec.eq_of_toNat_eq
  rw [fieldNN_toNat, formatI_toNat]
  omega

@[simp] theorem fieldOp_formatR (op : Nibble) (x y : Reg) (n : Nibble) : fieldOp (formatR op x y n) = op := by
  apply BitVec.eq_of_toNat_eq
  rw [fieldOp_toNat, formatR_toNat]
  omega

@[simp] theorem fieldX_formatR (op : Nibble) (x y : Reg) (n : Nibble) : fieldX (formatR op x y n) = x := by
  apply Fin.ext
  rw [fieldX_val, formatR_toNat]
  omega

@[simp] theorem fieldY_formatR (op : Nibble) (x y : Reg) (n : Nibble) : fieldY (formatR op x y n) = y := by
  apply Fin.ext
  rw [fieldY_val, formatR_toNat]
  omega

@[simp] theorem fieldN_formatR (op : Nibble) (x y : Reg) (n : Nibble) : fieldN (formatR op x y n) = n := by
  apply BitVec.eq_of_toNat_eq
  rw [fieldN_toNat, formatR_toNat]
  omega

/-! ### The decoder on an encoded instruction -/

/-- The decoder reads back every instruction: the fixed digits select its row and the fields are its operands,
format by format (R72, R74). -/
theorem decode_encode (i : Instr) : decode (encode i) = some i := by
  cases i with
  | cls | ret => rfl
  | jp | call | ldI | jpV0 => simp [encode, decode]
  | seImm | sneImm | ldImm | addImm | rnd => simp [encode, decode]
  | seReg | sneReg | drw => simp [encode, decode]
  | ldReg | orReg | andReg | xorReg | addReg | sub | shr | subn | shl => simp [encode, decode, decodeAlu]
  | skp | sknp => simp [encode, decode, formatS]
  | ldVxDt | ldVxK | ldDtVx | ldStVx | addI | ldF | ldB | storeRegs | loadRegs =>
    simp [encode, decode, decodeMisc, formatS]

/-- A 16-bit table word is the word itself. -/
@[simp] theorem tableWord_toNat (w : Word) : tableWord 16 w.toNat = w := by
  rw [tableWord, Nat.mod_eq_of_lt w.isLt, BitVec.ofNat_toNat, BitVec.setWidth_eq]

namespace Machine

/-! ### The step on a stored instruction -/

/-- A step decodes the instruction whose word was stored at the PC, wherever the PC is (R51, R63, R92). -/
theorem State.decode_fetchWord_withFetchWord (s : State) (i : Instr) :
    decode (s.withFetchWord 16 (encode i).toNat).fetchWord = some i := by
  rw [State.withFetchWord, tableWord_toNat, State.fetchWord_placeWord, decode_encode]

end Machine
end Sys2Proof

/-- Settles O9: the word stored at the PC is fetched, and the decoder reads the instruction back from it. -/
theorem storedInstructionIsRunNext : Obligations.StoredInstructionIsRunNext := by
  unfold Obligations.StoredInstructionIsRunNext
  intro s t i running ran
  exact step_of_exec running (s.decode_fetchWord_withFetchWord i) ran

end

section
/-! The decoder and the encoder are inverse to each other, a word's row of the opcode map decides what the decoder
answers, and the words that have no row (spec/30_encoding.md R71, R72, R74, R75, R76). -/

open Sys2Proof

namespace Sys2Proof

variable {w m v : Word} {op n : Nibble} {nn : Byte} {i : Instr}

/-! ### A word from its fixed digits and its operand fields (R72) -/

theorem formatA_of_fieldOp (hop : (fieldOp w).toNat = op.toNat) : formatA op (fieldNNN w) = w :=
  BitVec.eq_of_toNat_eq hop ▸ formatA_fields w

theorem formatI_of_fieldOp (hop : (fieldOp w).toNat = op.toNat) : formatI op (fieldX w) (fieldNN w) = w :=
  BitVec.eq_of_toNat_eq hop ▸ formatI_fields w

theorem formatR_of_fieldOp (hop : (fieldOp w).toNat = op.toNat) : formatR op (fieldX w) (fieldY w) (fieldN w) = w :=
  BitVec.eq_of_toNat_eq hop ▸ formatR_fields w

theorem formatS_of_fields (hop : (fieldOp w).toNat = op.toNat) (hnn : (fieldNN w).toNat = nn.toNat) :
    formatS op (fieldX w) nn = w :=
  BitVec.eq_of_toNat_eq hnn ▸ formatI_of_fieldOp hop

theorem formatR_of_fields (hop : (fieldOp w).toNat = op.toNat) (hn : (fieldN w).toNat = n.toNat) :
    formatR op (fieldX w) (fieldY w) n = w :=
  BitVec.eq_of_toNat_eq hn ▸ formatR_of_fieldOp hop

/-! ### The encoder on a decoded instruction -/

theorem encode_of_decodeAlu (hop : (fieldOp w).toNat = 0x8) (h : decodeAlu w = some i) : encode i = w := by
  unfold decodeAlu at h
  split at h <;> cases h <;> exact formatR_of_fields hop ‹(fieldN w).toNat = _›

theorem encode_of_decodeMisc (hop : (fieldOp w).toNat = 0xF) (h : decodeMisc w = some i) : encode i = w := by
  unfold decodeMisc at h
  split at h <;> cases h <;> exact formatS_of_fields hop ‹(fieldNN w).toNat = _›

/-- Family by family, the digits that the decoder tested are the encoder's fixed digits, and the other fields
are the instruction's operands (R72, R74). -/
theorem encode_of_decode (h : decode w = some i) : encode i = w := by
  unfold decode at h
  split at h
  · -- family 0: the two words themselves
    split at h
    next hw => cases h; exact hw.symm
    split at h
    next hw => cases h; exact hw.symm
    cases h
  case h_2 hop | h_3 hop | h_11 hop | h_12 hop => -- families 1, 2, A, B
    cases h; exact formatA_of_fieldOp hop
  case h_4 hop | h_5 hop | h_7 hop | h_8 hop | h_13 hop => -- families 3, 4, 6, 7, C
    cases h; exact formatI_of_fieldOp hop
  case h_14 hop => -- family D
    cases h; exact formatR_of_fieldOp hop
  case h_6 hop | h_10 hop => -- families 5, 9
    split at h
    next hn => cases h; exact formatR_of_fields hop (congrArg BitVec.toNat hn)
    cases h
  case h_9 hop => exact encode_of_decodeAlu hop h
  case h_15 hop => -- family E
    split at h
    next hnn => cases h; exact formatS_of_fields hop (congrArg BitVec.toNat hnn)
    split at h
    next hnn => cases h; exact formatS_of_fields hop (congrArg BitVec.toNat hnn)
    cases h
  case h_16 hop => exact encode_of_decodeMisc hop h
  · cases h

/-! ### The rows of the opcode map (R75) -/

/-- An instruction's word has the fixed digits of the instruction's row, format by format. -/
theorem encode_and_mask (i : Instr) : encode i &&& i.row.mask = i.row.fixed := by
  cases i with
  | cls | ret => rfl
  | jp | call | ldI | jpV0 => exact formatA_and_F000 _ _
  | seImm | sneImm | ldImm | addImm | rnd => exact formatI_and_F000 _ _ _
  | drw => exact formatR_and_F000 _ _ _ _
  | seReg | sneReg | ldReg | orReg | andReg | xorReg | addReg | sub | shr | subn | shl => exact formatR_and_F00F _ _ _ _
  | skp | sknp | ldVxDt | ldVxK | ldDtVx | ldStVx | addI | ldF | ldB | storeRegs | loadRegs =>
    exact formatI_and_F0FF _ _ _

/-- A field that the mask covers is a digit of the match: the primary opcode. -/
theorem fieldOp_of_and (h : w &&& m = v) (covered : fieldOp m = BitVec.allOnes 4) : fieldOp w = fieldOp v := by
  rw [← h, fieldOp, fieldOp, BitVec.extractLsb'_and, show m.extractLsb' 12 4 = _ from covered, BitVec.and_allOnes]

/-- A field that the mask covers is a digit of the match: the function nibble. -/
theorem fieldN_of_and (h : w &&& m = v) (covered : fieldN m = BitVec.allOnes 4) : fieldN w = fieldN v := by
  rw [← h, fieldN, fieldN, BitVec.extractLsb'_and, show m.extractLsb' 0 4 = _ from covered, BitVec.and_allOnes]

/-- A field that the mask covers is a digit of the match: the function byte. -/
theorem fieldNN_of_and (h : w &&& m = v) (covered : fieldNN m = BitVec.allOnes 8) : fieldNN w = fieldNN v := by
  rw [← h, fieldNN, fieldNN, BitVec.extractLsb'_and, show m.extractLsb' 0 8 = _ from covered, BitVec.and_allOnes]

/-- A word with the fixed digits of a row is decoded to an instruction of that row: the mask covers every digit
that the decoder tests on the way there (R74, R75). -/
theorem decode_row_of_and_mask (h : w &&& i.row.mask = i.row.fixed) : (decode w).map Instr.row = some i.row := by
  cases i with simp only [Instr.row] at h
  | cls | ret =>
    rw [show w = _ from BitVec.and_allOnes.symm.trans h]
    rfl
  | jp | call | seImm | sneImm | ldImm | addImm | ldI | jpV0 | rnd | drw =>
    rw [decode, fieldOp_of_and h rfl]
    rfl
  | seReg | sneReg =>
    rw [decode, fieldOp_of_and h rfl, fieldN_of_and h rfl]
    rfl
  | ldReg | orReg | andReg | xorReg | addReg | sub | shr | subn | shl =>
    rw [decode, decodeAlu, fieldOp_of_and h rfl, fieldN_of_and h rfl]
    rfl
  | skp | sknp =>
    rw [decode, fieldOp_of_and h rfl, fieldNN_of_and h rfl]
    rfl
  | ldVxDt | ldVxK | ldDtVx | ldStVx | addI | ldF | ldB | storeRegs | loadRegs =>
    rw [decode, decodeMisc, fieldOp_of_and h rfl, fieldNN_of_and h rfl]
    rfl

/-- Every row of the map is some instruction's, so a word that matches it decodes into it. -/
theorem decode_row_of_mem_opcodeMap {r : OpcodeRow} (row : r ∈ opcodeMap) (h : w &&& r.mask = r.fixed) :
    (decode w).map Instr.row = some r := by
  obtain ⟨i, -, rfl⟩ := List.mem_map.mp row
  exact decode_row_of_and_mask h

/-! ### The unknown words (R76) -/

theorem fieldN_eq_iff : fieldN w = n ↔ w.toNat % 16 = n.toNat := by
  rw [← BitVec.toNat_inj, fieldN_toNat]

theorem fieldNN_eq_iff : fieldNN w = nn ↔ w.toNat % 256 = nn.toNat := by
  rw [← BitVec.toNat_inj, fieldNN_toNat]

theorem decodeAlu_eq_none_iff : decodeAlu w = none ↔ 8 ≤ w.toNat % 16 ∧ w.toNat % 16 ≠ 0xE := by
  rw [decodeAlu, fieldN_toNat]
  split
  case h_10 => -- no listed nibble
    simp only [imp_false, eq_self, true_iff] at *
    omega
  all_goals simp [*]

theorem decodeMisc_eq_none_iff : decodeMisc w = none ↔
    w.toNat % 256 ∉ [0x07, 0x0A, 0x15, 0x18, 0x1E, 0x29, 0x33, 0x55, 0x65] := by
  rw [decodeMisc, fieldNN_toNat]
  split <;> simp_all

end Sys2Proof

/-- Settles O2: the decoder reads back the fixed digits and the operands that the encoder wrote. -/
theorem decodeUndoesEncode : Obligations.DecodeUndoesEncode := by
  unfold Obligations.DecodeUndoesEncode
  exact decode_encode

/-- Settles O3: what the decoder tested and what it read are all the digits of the word. -/
theorem encodeUndoesDecode : Obligations.EncodeUndoesDecode := by
  unfold Obligations.EncodeUndoesDecode
  exact fun _ _ => encode_of_decode

/-- Settles O4: a decoded word is its instruction's word, which has the row's digits; and a row's digits are those
that the decoder tests. -/
theorem decodeFollowsTheOpcodeMap : Obligations.DecodeFollowsTheOpcodeMap := by
  unfold Obligations.DecodeFollowsTheOpcodeMap
  constructor
  · intro w i decoded
    exact encode_of_decode decoded ▸ encode_and_mask i
  · intro w r row masked
    exact Option.map_eq_some_iff.mp (decode_row_of_mem_opcodeMap row masked)

/-- Settles O5: both rows are the row of the one instruction that the word decodes to. -/
theorem noWordMatchesTwoRows : Obligations.NoWordMatchesTwoRows := by
  unfold Obligations.NoWordMatchesTwoRows
  intro w r hr q hq masked_r masked_q
  exact Option.some_inj.mp
    ((decode_row_of_mem_opcodeMap hr masked_r).symm.trans (decode_row_of_mem_opcodeMap hq masked_q))

/-- Settles O6, family by family: ten families have no unknown word, six test further digits. -/
theorem unknownWordsByFamily : Obligations.UnknownWordsByFamily := by
  unfold Obligations.UnknownWordsByFamily
  intro w
  rw [decode, fieldOp_toNat]
  split
  case h_1 hop => simp [hop, ite_eq_iff, ← BitVec.toNat_inj]
  case h_6 hop | h_10 hop => simp [hop, fieldN_eq_iff] -- families 5, 9
  case h_9 hop => simp [hop, decodeAlu_eq_none_iff]
  case h_15 hop => simp [hop, ite_eq_iff, fieldNN_eq_iff]
  case h_16 hop => simp [hop, decodeMisc_eq_none_iff]
  case h_17 => -- the quotient is a nibble
    simp only [imp_false] at *
    omega
  all_goals simp [*] -- the ten families that decode every word

end

section
/-! What every step and every instruction gives (spec/40_step_cycle.md R90 to R97), the Timer Driver's counter over a
run (spec/60_exceptions.md R202), the jump to itself and the end of a run (spec/40_step_cycle.md R102), and what `load`
leaves in memory (spec/40_step_cycle.md R99). -/

open Sys2Proof Sys2Proof.Machine

namespace Sys2Proof

/-- The instructions that write the framebuffer (R97). -/
def Instr.draws : Instr → Bool
  | .cls | .drw _ _ _ => true
  | _ => false

theorem Instr.draws_iff {i : Instr} : i.draws = true ↔ i = .cls ∨ ∃ x y n, i = .drw x y n := by
  cases i <;> simp [Instr.draws]

namespace Machine

variable {s t : State} {i : Instr}

/-! ### Completion (R90) -/

/-- Every instruction ends in a next state: both branches of the three meanings that have some do. -/
theorem exec_completes (i : Instr) (s : State) : ∃ t, exec i s = .next t := by
  cases i with
  | ret =>
    by_cases empty : s.sp.val = 0
    · exact ⟨_, exec_ret_empty s empty⟩
    · exact ⟨_, exec_ret_of_some s (Nat.pos_of_ne_zero empty)⟩
  | call nnn =>
    by_cases full : s.sp.val = 32
    · exact ⟨_, exec_call_full s nnn full⟩
    · exact ⟨_, exec_call_of_room s nnn (by have := s.sp.isLt; omega)⟩
  | ldVxK x =>
    simp only [exec, execLdVxK]
    split <;> exact ⟨_, rfl⟩
  | _ => exact ⟨_, rfl⟩

theorem step_completes (s : State) : ∃ t, step s = .next t := by
  cases running : s.mode with
  | fault => exact ⟨_, step_of_fault running⟩
  | run =>
    cases decoded : decode s.fetchWord with
    | none => exact ⟨_, step_of_unknown running decoded⟩
    | some i =>
      obtain ⟨m, ran⟩ := exec_completes i s.beginStep
      exact ⟨_, step_of_exec running decoded ran⟩

/-! ### The output `redraw` (R97) -/

/-- An instruction that writes the framebuffer raises `redraw`, and no other does. -/
theorem exec_redraw (h : exec i s = .next t) (quiet : s.redraw = false) : t.redraw = i.draws := by
  cases drawing : i.draws with
  | true =>
    obtain rfl | ⟨x, y, n, rfl⟩ := Instr.draws_iff.mp drawing <;> cases h <;> rfl
  | false =>
    cases exec_effect h with
    | fatal => rfl
    | cls | drw => cases drawing
    | _ => exact quiet

/-! ### The Timer Driver's counter over a run (R202) -/

/-- A completed step counts itself modulo the ratio. -/
theorem State.endStep_tickCtr (running : s.mode = .run) (below : s.tickCtr < (s.cyclesPerTick : Nat)) :
    s.endStep.tickCtr = (s.tickCtr + 1) % (s.cyclesPerTick : Nat) := by
  obtain ⟨stopped, -⟩ | ⟨-, due, e⟩ | ⟨-, notDue, e⟩ := s.endStep_cases
  · cases running.symm.trans stopped
  · rw [e, due, Nat.mod_self, State.tick_tickCtr]
  · rw [e, Nat.mod_eq_of_lt (by omega)]

/-- A step that starts and ends in RUN mode is a completed one: the counter advances by 1 modulo the ratio, which
stays. -/
theorem step_counts (h : step s = .next t) (stillRunning : t.mode = .run) (below : s.tickCtr < (s.cyclesPerTick : Nat)) :
    t.tickCtr = (s.tickCtr + 1) % (s.cyclesPerTick : Nat) ∧ t.cyclesPerTick = s.cyclesPerTick := by
  obtain ⟨stopped, rfl⟩ | ⟨-, -, rfl⟩ | ⟨i, m, -, -, ran, rfl⟩ := step_cases h
  · cases stopped.symm.trans stillRunning
  · cases stillRunning
  · rw [State.endStep_mode] at stillRunning
    have same := exec_committed ran stillRunning
    have counter : m.tickCtr = s.tickCtr := same.tickCtr
    have ratio : m.cyclesPerTick = s.cyclesPerTick := same.cyclesPerTick
    rw [State.endStep_cyclesPerTick, State.endStep_tickCtr stillRunning (by rwa [counter, ratio]), counter, ratio]
    exact ⟨rfl, rfl⟩

/-- No step leaves FAULT mode (R95). -/
theorem step_run_of_run (h : step s = .next t) (running : t.mode = .run) : s.mode = .run := by
  cases started : s.mode with
  | run => rfl
  | fault =>
    rw [step_of_fault started] at h
    cases h
    cases started.symm.trans running

/-- A run of any machine goes on from the state that its first step leaves. -/
theorem run_succ_of_step {M : Host.Core} {a b : M.State} (k : Nat) (stepped : M.step a = .next b) :
    M.run (k + 1) a = M.run k b := by
  rw [Host.Core.run, stepped]

/-- A run of `k + 1` steps is a step and a run of `k` steps. -/
theorem core_run_succ {k : Nat} (h : Host.Core.run core (k + 1) s = .next t) :
    ∃ m : State, step s = .next m ∧ Host.Core.run core k m = .next t := by
  obtain ⟨m, stepped⟩ := step_completes s
  exact ⟨m, stepped, (run_succ_of_step (M := core) k stepped).symm.trans h⟩

theorem core_run_of_run {k : Nat} (h : Host.Core.run core k s = .next t) (running : t.mode = .run) :
    s.mode = .run := by
  induction k generalizing s with
  | zero => cases h; exact running
  | succ k ih =>
    obtain ⟨m, stepped, rest⟩ := core_run_succ h
    exact step_run_of_run stepped (ih rest)

/-- A run that is still in RUN mode consists of completed steps, and each counted itself. -/
theorem core_run_tickCtr {k : Nat} (h : Host.Core.run core k s = .next t) (running : t.mode = .run)
    (below : s.tickCtr < (s.cyclesPerTick : Nat)) : t.tickCtr = (s.tickCtr + k) % (s.cyclesPerTick : Nat) := by
  induction k generalizing s with
  | zero => cases h; exact (Nat.mod_eq_of_lt below).symm
  | succ k ih =>
    obtain ⟨m, stepped, rest⟩ := core_run_succ h
    obtain ⟨counter, ratio⟩ := step_counts stepped (core_run_of_run rest running) below
    have stillBelow : m.tickCtr < (m.cyclesPerTick : Nat) := by
      rw [counter, ratio]
      exact Nat.mod_lt _ s.cyclesPerTick.pos
    calc t.tickCtr
      _ = (m.tickCtr + k) % (m.cyclesPerTick : Nat) := ih rest stillBelow
      _ = ((s.tickCtr + 1) % (s.cyclesPerTick : Nat) + k) % (s.cyclesPerTick : Nat) := by rw [counter, ratio]
      _ = (s.tickCtr + (k + 1)) % (s.cyclesPerTick : Nat) := by rw [Nat.mod_add_mod, Nat.add_assoc, Nat.add_comm 1 k]

/-! ### The jump to itself and the end of a run (R102) -/

theorem State.setPc_toNat_pc (s : State) : s.setPc s.pc.toNat = s := by
  rw [State.setPc, BitVec.ofNat_toNat, BitVec.setWidth_eq]

/-- A step at a jump to itself is the Timer Driver's work alone. -/
theorem step_of_selfJump {nnn : Address} (running : s.mode = .run) (decoded : decode s.fetchWord = some (.jp nnn))
    (self : s.pc.toNat = nnn.toNat) : step s = .next s.beginStep.endStep := by
  have ran : exec (.jp nnn) s.beginStep = .next s.beginStep := by
    rw [exec, execJp, ← self]
    exact congrArg Host.Outcome.next s.beginStep.setPc_toNat_pc
  exact step_of_exec running decoded ran

theorem State.runEnded_iff (s : State) :
    s.runEnded = true ↔ s.mode = .fault ∨ ∃ nnn, decode s.fetchWord = some (.jp nnn) ∧ s.pc.toNat = nnn.toNat := by
  unfold State.runEnded
  cases s.mode with
  | fault => simp
  | run =>
    dsimp only
    split
    next nnn decoded => simp [decoded]
    next other =>
      have noJump : ¬∃ nnn, decode s.fetchWord = some (.jp nnn) ∧ s.pc.toNat = nnn.toNat :=
        fun ⟨nnn, decoded, _⟩ => other nnn decoded
      simp [noJump]

/-- Whether a run has ended is read from the mode, the PC and memory. -/
theorem State.runEnded_congr (mode : t.mode = s.mode) (pc : t.pc = s.pc) (font : t.font = s.font) (mem : t.mem = s.mem) :
    t.runEnded = s.runEnded := by
  unfold State.runEnded State.fetchWord State.memRead
  rw [mode, pc, font, mem]

theorem Mode.eq_run_of_ne_fault {mode : Mode} (h : mode ≠ .fault) : mode = .run := by
  cases mode with
  | run => rfl
  | fault => exact absurd rfl h

/-- A step of an ended run changes nothing but the Timer Driver's state and the outputs. -/
theorem step_of_runEnded (ended : s.runEnded = true) (h : step s = .next t) :
    t = { s with tickCtr := t.tickCtr, dt := t.dt, st := t.st, redraw := t.redraw, soundExpiry := t.soundExpiry, faultOut := t.faultOut } := by
  by_cases stopped : s.mode = .fault
  · rw [step_of_fault stopped] at h
    cases h
    rfl
  · obtain ⟨nnn, decoded, self⟩ := (s.runEnded_iff.mp ended).resolve_left stopped
    rw [step_of_selfJump (Mode.eq_run_of_ne_fault stopped) decoded self] at h
    cases h
    rw [State.endStep_redraw, State.endStep_faultOut]
    exact s.beginStep.endStep_eq

/-! ### Memory (R51, R92, R99) -/

/-- Addresses are taken modulo 4096 (R51). -/
@[simp] theorem State.memRead_mod (s : State) (a : Nat) : s.memRead (a % 4096) = s.memRead a := by
  rw [State.memRead, Nat.mod_mod, ← State.memRead]

/-- The word fetched, as a number: the byte at the PC is its high half (R52, R92). -/
theorem State.fetchWord_toNat (s : State) :
    s.fetchWord.toNat = (s.memRead s.pc.toNat).toNat * 256 + (s.memRead (s.pc.toNat + 1)).toNat :=
  toNat_append_eq (s.memRead s.pc.toNat) (s.memRead (s.pc.toNat + 1))

end Machine
end Sys2Proof

/-- Settles O10: no meaning and no step has a branch that faults or refuses. -/
theorem everyStepCompletes : Obligations.EveryStepCompletes := by
  unfold Obligations.EveryStepCompletes
  exact ⟨exec_completes, step_completes⟩

/-- Settles O11, by the three things a step can do: only an executed instruction can raise `redraw`, and it does
so exactly when it writes the framebuffer. -/
theorem redrawExactlyAfterClearOrDraw : Obligations.RedrawExactlyAfterClearOrDraw := by
  unfold Obligations.RedrawExactlyAfterClearOrDraw
  intro s t stepped
  obtain ⟨stopped, rfl⟩ | ⟨-, unknown, rfl⟩ | ⟨i, m, running, decoded, ran, rfl⟩ := step_cases stepped
  · simp [stopped]
  · simp [unknown]
  · rw [State.endStep_redraw, exec_redraw ran rfl, Instr.draws_iff]
    simp [running, decoded]

/-- Settles O13, by induction over the run: FAULT mode is never left, so each step of it counted itself. -/
theorem tickCounterCountsCompletedSteps : Obligations.TickCounterCountsCompletedSteps := by
  unfold Obligations.TickCounterCountsCompletedSteps
  exact fun _ _ _ below _ ran stillRunning => core_run_tickCtr ran stillRunning below

/-- Settles O14: the jump sets the PC to what it is, so the step is the Timer Driver's work alone. -/
theorem selfJumpIsStable : Obligations.SelfJumpIsStable := by
  unfold Obligations.SelfJumpIsStable
  exact fun s _ running decoded self => ⟨_, step_of_selfJump running decoded self, s.beginStep.endStep_eq⟩

/-- Settles O55: an image that fits does not reach past 4095, so its run of stores does not wrap. -/
theorem loadCopiesTheImage : Obligations.LoadCopiesTheImage := by
  unfold Obligations.LoadCopiesTheImage
  intro s bytes
  refine ⟨fun fits => ⟨_, s.load_of_fits fits, fun k h => ?_, fun a inside outside => ?_, rfl⟩, s.load_too_long⟩
  · exact s.memRead_storeBytes 0x200 bytes (by omega) k h
  · exact s.memRead_storeBytes_outside 0x200 bytes a fun j hj => by omega

/-- Settles O59: a step of an ended run leaves the mode, the PC and memory, from which the end is read. -/
theorem endedRunStaysEnded : Obligations.EndedRunStaysEnded := by
  unfold Obligations.EndedRunStaysEnded
  intro s
  refine ⟨s.runEnded_iff, fun t ended stepped => ?_⟩
  have frame := step_of_runEnded ended stepped
  refine ⟨?_, frame⟩
  rw [← ended]
  apply State.runEnded_congr <;> rw [frame]

/-- Settles O7: the two bytes are read at the PC and the address after it, each wrapped. -/
theorem fetchIsBigEndianAndWraps : Obligations.FetchIsBigEndianAndWraps := by
  unfold Obligations.FetchIsBigEndianAndWraps
  intro s
  rw [State.fetchWord_toNat, State.memRead_mod, State.memRead_mod]

/-- Settles O8: the instruction ends in a next state, on which the step goes on to its end. -/
theorem stepRunsTheDecodedInstruction : Obligations.StepRunsTheDecodedInstruction := by
  unfold Obligations.StepRunsTheDecodedInstruction
  intro s i running decoded
  obtain ⟨m, ran⟩ := exec_completes i s.beginStep
  rw [ran]
  exact step_of_exec running decoded ran

/-- Settles O19: the inert step records its outputs and keeps everything else. -/
theorem faultModeStepIsInert : Obligations.FaultModeStepIsInert := by
  unfold Obligations.FaultModeStepIsInert
  exact fun s stopped => ⟨s.inertStep, step_of_fault stopped, rfl, rfl, rfl, rfl⟩

end

section
/-! Where an instruction takes the PC, said once (spec/40_step_cycle.md R96; spec/41_control_flow.md R110 to R113), and
from it the three ways past the top of the 4096 addresses, the jumps, and the call with its return. -/

open Sys2Proof Sys2Proof.Machine

namespace Sys2Proof
namespace Machine

variable {s t : State} {i : Instr}

/-! ### The PC as a number (R22) -/

theorem State.setPc_pc_toNat (s : State) {n : Nat} (fits : n < 0x10000) : (s.setPc n).pc.toNat = n := by
  rw [State.setPc_pc, BitVec.toNat_ofNat, Nat.mod_eq_of_lt fits]

/-- An address field fits the PC (R111, R112). -/
theorem State.setPc_address (s : State) (nnn : Address) : (s.setPc nnn.toNat).pc.toNat = nnn.toNat :=
  s.setPc_pc_toNat (by have := nnn.isLt; omega)

/-- The sum of an address field and a byte fits the PC (R113). -/
theorem State.setPc_address_add (s : State) (nnn : Address) (b : Byte) :
    (s.setPc (nnn.toNat + b.toNat)).pc.toNat = nnn.toNat + b.toNat :=
  s.setPc_pc_toNat (by have := nnn.isLt; have := b.isLt; omega)

/-! ### The return, by the entry it pops -/

/-- A stack that is not empty has an entry below SP (R25). -/
theorem State.exists_top (s : State) (h : 0 < s.sp.val) : ∃ k : Fin 32, k.val + 1 = s.sp.val :=
  ⟨⟨s.sp.val - 1, by have := s.sp.isLt; omega⟩, Nat.sub_add_cancel h⟩

/-- `00EE` with `k` the entry below SP goes to that entry plus 2, modulo 2^16, and leaves SP at `k` (R110). -/
theorem exec_ret_of_top (s : State) {k : Fin 32} (top : k.val + 1 = s.sp.val) :
    exec .ret s = .next { s with sp := k.castSucc, pc := s.stack[k.val] + 2 } := by
  have below : s.sp.val - 1 = k.val := by omega
  rw [exec_ret_of_some s (by omega), State.setPc, ofNat_toNat_add]
  simp only [below]
  rfl

/-! ### Where an instruction takes the PC -/

/-- The places an instruction can take the PC from the state `s`; only a transfer of control names its target. -/
inductive PcMove (s : State) : Instr → Word → Prop where
  /-- it stays: a fatal condition (R199), or the wait for a key (R177) -/
  | stay {i : Instr} : PcMove s i s.pc
  /-- the advance past the instruction (R96) -/
  | next {i : Instr} : PcMove s i (s.pc + 2)
  /-- a skip that is taken (R96) -/
  | skip {i : Instr} : PcMove s i (s.pc + 4)
  /-- `1NNN` (R111) -/
  | jp {nnn p} : p.toNat = nnn.toNat → PcMove s (.jp nnn) p
  /-- `2NNN` with room on the stack (R112) -/
  | call {nnn p} : p.toNat = nnn.toNat → PcMove s (.call nnn) p
  /-- `BNNN` (R113) -/
  | jpV0 {nnn p} : p.toNat = nnn.toNat + (s.reg v0).toNat → PcMove s (.jpV0 nnn) p
  /-- `00EE` with an entry on the stack (R110) -/
  | ret {k : Fin 32} : k.val + 1 = s.sp.val → PcMove s .ret (s.stack[k.val] + 2)

theorem pcMove_next (i : Instr) (s : State) : PcMove s i (s.advance 2).pc := by
  rw [State.advance_eq, State.setPc_pc, ofNat_toNat_add]
  exact .next

theorem pcMove_skipIf (i : Instr) (s : State) (c : Bool) : PcMove s i (s.skipIf c).pc := by
  rw [State.skipIf_eq, State.setPc_pc, ofNat_toNat_add]
  cases c with
  | true => exact .skip
  | false => exact .next

/-- Every instruction takes the PC to one of these places. -/
theorem exec_pcMove (h : exec i s = .next t) : PcMove s i t.pc := by
  cases i with
  | jp nnn => cases h; exact .jp (s.setPc_address nnn)
  | call nnn =>
    by_cases full : s.sp.val = 32
    · rw [exec_call_full s nnn full] at h
      cases h
      exact .stay
    · rw [exec_call_of_room s nnn (by have := s.sp.isLt; omega)] at h
      cases h
      exact .call (State.setPc_address _ nnn)
  | jpV0 nnn => cases h; exact .jpV0 (s.setPc_address_add nnn _)
  | ret =>
    by_cases empty : s.sp.val = 0
    · rw [exec_ret_empty s empty] at h
      cases h
      exact .stay
    · obtain ⟨k, top⟩ := s.exists_top (Nat.pos_of_ne_zero empty)
      rw [exec_ret_of_top s top] at h
      cases h
      exact .ret top
  | ldVxK x =>
    obtain rfl | ⟨b, rfl⟩ := exec_ldVxK_cases h
    · exact .stay
    · exact pcMove_next _ s
  | seImm | sneImm | seReg | sneReg | skp | sknp => cases h; exact pcMove_skipIf _ s _
  | storeRegs x =>
    cases h
    rw [State.advance_eq, State.setPc_pc, State.bumpI_pc]
    exact pcMove_next _ s
  | loadRegs x =>
    cases h
    rw [State.advance_eq, State.setPc_pc, State.bumpI_pc, State.loadUpTo_pc]
    exact pcMove_next _ s
  | _ => cases h; exact pcMove_next _ s

/-- An advance that passes the top of the 4096 addresses starts at most 4 below it. -/
theorem advance_past_top {p q : Word} (q_eq : q = p + 2 ∨ q = p + 4) (inside : p.toNat < 0x1000)
    (outside : 0x1000 ≤ q.toNat) : 0xFFC ≤ p.toNat := by
  obtain rfl | rfl := q_eq <;> bv_omega

/-- A step moves the PC by the decoded instruction's move, or leaves it (R91, R95, R199). -/
theorem step_pcMove (h : step s = .next t) :
    t.pc = s.pc ∨ ∃ i, decode s.fetchWord = some i ∧ PcMove s.beginStep i t.pc := by
  obtain ⟨-, rfl⟩ | ⟨-, -, rfl⟩ | ⟨i, m, -, decoded, ran, rfl⟩ := step_cases h
  · exact .inl rfl
  · exact .inl rfl
  · rw [State.endStep_pc]
    exact .inr ⟨i, decoded, exec_pcMove ran⟩

/-- A step at a `1NNN`, or at a `2NNN` with room, goes to NNN (R111, R112). -/
theorem step_pc_of_jump {nnn : Address} (running : s.mode = .run) (h : step s = .next t)
    (jump : decode s.fetchWord = some (.jp nnn) ∨ (decode s.fetchWord = some (.call nnn) ∧ s.sp.val < 32)) :
    t.pc.toNat = nnn.toNat := by
  obtain decoded | ⟨decoded, room⟩ := jump
  · rw [step_of_exec running decoded rfl] at h
    cases h
    rw [State.endStep_pc, State.setPc_address]
  · rw [step_of_exec running decoded (exec_call_of_room s.beginStep nnn room)] at h
    cases h
    rw [State.endStep_pc, State.setPc_address]

end Machine
end Sys2Proof

/-- Settles O15, by where an instruction can take the PC: staying or jumping to an address field does not pass the
top, and each of the other moves is one of the three ways. -/
theorem pcPassesTheTopInThreeWaysOnly : Obligations.PcPassesTheTopInThreeWaysOnly := by
  unfold Obligations.PcPassesTheTopInThreeWaysOnly
  constructor
  · intro s t stepped inside outside
    obtain same | ⟨i, decoded, move⟩ := step_pcMove stepped
    · rw [same] at outside
      omega
    · generalize t.pc = p at move outside ⊢
      cases move with
      | stay => rw [State.beginStep_pc] at outside; omega
      | next => exact .inr (.inl ⟨advance_past_top (.inl rfl) inside outside, .inl rfl⟩)
      | skip => exact .inr (.inl ⟨advance_past_top (.inr rfl) inside outside, .inr rfl⟩)
      | @jp nnn _ target | @call nnn _ target => have := nnn.isLt; omega
      | @jpV0 nnn _ target => exact .inl ⟨nnn, decoded, target ▸ outside, target⟩
      | @ret k top => exact .inr (.inr ⟨decoded, k, top, rfl⟩)
  · intro s t nnn running stepped jump
    rw [step_pc_of_jump running stepped jump]
    exact nnn.isLt

/-- Settles O21: the entry popped is the one below SP, and popping takes only SP and the PC. -/
theorem returnGoesPastTheCall : Obligations.ReturnGoesPastTheCall := by
  unfold Obligations.ReturnGoesPastTheCall
  intro s nonempty
  obtain ⟨k, top⟩ := s.exists_top nonempty
  refine ⟨_, exec_ret_of_top s top, top, fun j below => ?_, rfl, fun _ => rfl⟩
  obtain rfl : j = k := by omega
  rfl

/-- Settles O23, by the call with room: only the entry at SP is set. -/
theorem callPushesItsOwnAddress : Obligations.CallPushesItsOwnAddress := by
  unfold Obligations.CallPushesItsOwnAddress
  intro nnn s room
  refine ⟨_, exec_call_of_room s nnn room, rfl, State.setPc_address _ nnn, fun k => ?_, rfl, fun _ => rfl⟩
  rw [State.setPc_stack, Vector.getElem_set]
  simp only [eq_comm]

/-- Settles O24: the return pops the entry at the SP of the call, which holds the call's own address. -/
theorem callThenReturnComesBack : Obligations.CallThenReturnComesBack := by
  unfold Obligations.CallThenReturnComesBack
  intro nnn s room
  refine ⟨_, _, exec_call_of_room s nnn room, exec_ret_of_top _ (k := ⟨s.sp.val, room⟩) rfl, ?_, rfl,
    fun k below => ?_, rfl⟩
  · exact congrArg (· + 2) (Vector.getElem_set_self room)
  · exact Vector.getElem_set_ne room k.isLt (Nat.ne_of_gt below)

/-- Settles O22: an address field fits the PC. -/
theorem jumpGoesToItsAddress : Obligations.JumpGoesToItsAddress := by
  unfold Obligations.JumpGoesToItsAddress
  exact fun nnn s => ⟨_, rfl, s.setPc_address nnn, onlyRegsPc_setPc s _⟩

/-- Settles O25: the sum of an address field and a byte fits the PC. -/
theorem jumpWithOffsetAddsV0 : Obligations.JumpWithOffsetAddsV0 := by
  unfold Obligations.JumpWithOffsetAddsV0
  exact fun nnn s => ⟨_, rfl, s.setPc_address_add nnn _, onlyRegsPc_setPc s _⟩

end

section
/-! Where a conditional skip takes the PC and what it leaves, said once for every condition (spec/40_step_cycle.md R96),
and the skips on an immediate and on two registers (spec/42_skips.md R120 to R123). -/

open Sys2Proof Sys2Proof.Machine

namespace Sys2Proof.Machine

/-- A skip changes nothing but the PC, taken or not. -/
theorem onlyRegsPc_skipIf (s : State) (c : Bool) : OnlyRegsPc [] s (s.skipIf c) := onlyRegsPc_setPc s _

/-- A skip adds 4 to the PC when taken and 2 otherwise, modulo 2^16 (R22, R96). -/
theorem State.skipIf_pc (s : State) (c : Bool) : (s.skipIf c).pc = if c = true then s.pc + 4 else s.pc + 2 := by
  rw [State.skipIf_eq, State.setPc_pc, ofNat_toNat_add]
  cases c with
  | true => rfl
  | false => rfl

variable {P : Prop} [Decidable P] {c : Bool}

/-- A skip whose test decides `P` is taken when `P` holds. -/
theorem State.skipIf_pc_of_iff (s : State) (test : c = true ↔ P) :
    (s.skipIf c).pc = if P then s.pc + 4 else s.pc + 2 := by
  simp only [State.skipIf_pc, test]

/-- A skip whose test decides `¬P` is taken when `P` fails. -/
theorem State.skipIf_pc_of_iff_not (s : State) (test : c = true ↔ ¬P) :
    (s.skipIf c).pc = if P then s.pc + 2 else s.pc + 4 := by
  rw [s.skipIf_pc_of_iff test, ite_not]

end Sys2Proof.Machine

/-- Settles O26: the two skips test VX = NN and its negation. -/
theorem skipsOnImmediate : Obligations.SkipsOnImmediate := by
  unfold Obligations.SkipsOnImmediate
  intro x nn s
  constructor
  · exact ⟨_, rfl, s.skipIf_pc_of_iff beq_iff_eq, onlyRegsPc_skipIf s _⟩
  · exact ⟨_, rfl, s.skipIf_pc_of_iff_not bne_iff_ne, onlyRegsPc_skipIf s _⟩

/-- Settles O27: the two skips test VX = VY and its negation. -/
theorem skipsOnRegisters : Obligations.SkipsOnRegisters := by
  unfold Obligations.SkipsOnRegisters
  intro x y s
  constructor
  · exact ⟨_, rfl, s.skipIf_pc_of_iff beq_iff_eq, onlyRegsPc_skipIf s _⟩
  · exact ⟨_, rfl, s.skipIf_pc_of_iff_not bne_iff_ne, onlyRegsPc_skipIf s _⟩

end

section
/-! What a register load and an ALU operation leave in VX, in VF and in the PC, said once for the two shapes of their
meanings, a register write and a result with its flag (spec/40_step_cycle.md R94; spec/43_load_alu.md R142), and from
it the loads, the arithmetic and the shifts (R130 to R141). -/

open Sys2Proof Sys2Proof.Machine

namespace Sys2Proof.Machine

/-! ### The two shapes -/

/-- The next instruction is 2 bytes on, modulo 2^16 (R22, R96). -/
theorem State.advance_two_pc (s : State) : (s.advance 2).pc = s.pc + 2 := ofNat_toNat_add s.pc 2

theorem State.setReg_advance_reg (s : State) (x : Reg) (b : Byte) (n : Nat) : ((s.setReg x b).advance n).reg x = b :=
  s.reg_setReg_same x b

/-- The flag is written last, so VF holds it whatever the result's register (R94 item 2, R142). -/
theorem State.setResultFlag_advance_flag (s : State) (x : Reg) {r : Byte × Bool} (n : Nat) {P : Prop} [Decidable P]
    (flag : r.2 = true ↔ P) : ((s.setResultFlag x r).advance n).reg vF = if P then 1 else 0 := by
  have written : ((s.setResultFlag x r).advance n).reg vF = flagByte r.2 := State.reg_setReg_same _ vF _
  simp only [written, flagByte, flag]

/-- The result stands in VX unless VX is VF, where the flag overwrites it (R142). -/
theorem State.setResultFlag_advance_reg (s : State) {x : Reg} (r : Byte × Bool) (n : Nat) (ne : x ≠ vF) :
    ((s.setResultFlag x r).advance n).reg x = r.1 := by
  rw [State.advance_eq, State.setPc_reg, State.setResultFlag_eq, State.reg_setReg, if_neg ne.symm,
    State.reg_setReg_same]

/-! ### The ALU in exact integers -/

theorem aluAdd_result_toNat (a b : Byte) : (aluAdd a b).1.toNat = (a.toNat + b.toNat) % 256 := by
  rw [aluAdd_result, BitVec.toNat_add]

theorem aluAdd_carry_iff (a b : Byte) : (aluAdd a b).2 = true ↔ 256 ≤ a.toNat + b.toNat := decide_eq_true_iff

theorem aluSub_noBorrow_iff (a b : Byte) : (aluSub a b).2 = true ↔ b.toNat ≤ a.toNat := decide_eq_true_iff

theorem aluShr_result_toNat (a : Byte) : (aluShr a).1.toNat = a.toNat / 2 := by
  rw [aluShr_result, BitVec.toNat_ushiftRight, Nat.shiftRight_one]

theorem aluShl_result_toNat (a : Byte) : (aluShl a).1.toNat = a.toNat * 2 % 256 := by
  rw [aluShl_result, BitVec.toNat_shiftLeft, Nat.shiftLeft_eq, Nat.pow_one]

/-- The bit lost on the right is the parity of the source (R139). -/
theorem aluShr_lostBit_iff (a : Byte) : (aluShr a).2 = true ↔ a.toNat % 2 = 1 := by
  rw [aluShr, BitVec.getLsbD, Nat.testBit_zero, decide_eq_true_iff]

/-- The bit lost on the left is the sign bit of the source (R141). -/
theorem aluShl_lostBit_iff (a : Byte) : (aluShl a).2 = true ↔ 128 ≤ a.toNat := by
  have lost : (aluShl a).2 = a.msb := rfl
  rw [lost, BitVec.msb_eq_decide, decide_eq_true_iff]

end Sys2Proof.Machine

/-- Settles O32: the carry is written after the sum. -/
theorem addSetsCarry : Obligations.AddSetsCarry := by
  unfold Obligations.AddSetsCarry
  intro x y s
  exact ⟨_, rfl, s.setResultFlag_advance_flag x 2 (aluAdd_carry_iff _ _),
    fun ne => (s.setResultFlag_advance_reg _ 2 ne).trans (aluAdd_result _ _), s.advance_two_pc,
    onlyRegsPc_setResultFlag s x _ 2⟩

/-- Settles O33: one subtraction, its operands in either order, and no-borrow written after it. -/
theorem subtractSetsNoBorrow : Obligations.SubtractSetsNoBorrow := by
  unfold Obligations.SubtractSetsNoBorrow
  intro x y s
  constructor
  all_goals
    exact ⟨_, rfl, s.setResultFlag_advance_flag x 2 (aluSub_noBorrow_iff _ _),
      fun ne => (s.setResultFlag_advance_reg _ 2 ne).trans (aluSub_result _ _), s.advance_two_pc,
      onlyRegsPc_setResultFlag s x _ 2⟩

/-- Settles O34: both shifts take the quirk's source, and the bit they lose is written after the shifted byte. -/
theorem shiftsByOneBit : Obligations.ShiftsByOneBit := by
  unfold Obligations.ShiftsByOneBit
  intro x y s b source
  obtain rfl : b = s.shiftSource x y := source
  constructor
  · exact ⟨_, rfl, s.setResultFlag_advance_flag x 2 (aluShr_lostBit_iff _),
      fun ne => (congrArg BitVec.toNat (s.setResultFlag_advance_reg _ 2 ne)).trans (aluShr_result_toNat _),
      s.advance_two_pc, onlyRegsPc_setResultFlag s x _ 2⟩
  · exact ⟨_, rfl, s.setResultFlag_advance_flag x 2 (aluShl_lostBit_iff _),
      fun ne => (congrArg BitVec.toNat (s.setResultFlag_advance_reg _ 2 ne)).trans (aluShl_result_toNat _),
      s.advance_two_pc, onlyRegsPc_setResultFlag s x _ 2⟩

/-- Settles O29: the load is one register write, VF included. -/
theorem loadImmediateSetsVX : Obligations.LoadImmediateSetsVX := by
  unfold Obligations.LoadImmediateSetsVX
  intro x nn s
  exact ⟨_, rfl, s.setReg_advance_reg x nn 2, s.advance_two_pc, onlyRegsPc_setReg s x nn 2⟩

/-- Settles O30: the sum is written and the ALU's carry is dropped. -/
theorem addImmediateWrapsWithoutFlag : Obligations.AddImmediateWrapsWithoutFlag := by
  unfold Obligations.AddImmediateWrapsWithoutFlag
  intro x nn s
  exact ⟨_, rfl, (congrArg BitVec.toNat (s.setReg_advance_reg x _ 2)).trans (aluAdd_result_toNat _ _),
    s.advance_two_pc, onlyRegsPc_setReg s x _ 2⟩

/-- Settles O31: each of the four is one write of VX. -/
theorem copyAndBitwiseIntoVX : Obligations.CopyAndBitwiseIntoVX := by
  unfold Obligations.CopyAndBitwiseIntoVX
  intro x y s
  refine ⟨?copy, ?or, ?and, ?xor⟩
  all_goals exact ⟨_, rfl, s.setReg_advance_reg x _ 2, s.advance_two_pc, onlyRegsPc_setReg s x _ 2⟩

end

section
/-! What an instruction that writes I leaves, said once for a write of registers and for a run of stores
(spec/20_memory.md R51, R54; spec/40_step_cycle.md R96), and from it the transfers of spec/44_index_memory.md
R150 to R156. -/

open Sys2Proof Sys2Proof.Machine

namespace Sys2Proof.Machine

variable {s t : State} {i : Instr} {x : Reg}

/-! ### Frames -/

/-- An instruction whose effect is confined to the general registers, I and the PC writes no register but those
its row of the access table lists (R20), and no memory. -/
theorem exec_onlyRegsIndexPc (h : exec i s = .next t) (confined : t = { s with v := t.v, i := t.i, pc := t.pc }) :
    OnlyRegsIndexPc i.writes s t := by
  refine ⟨confined, fun r unlisted => exec_reg_of_unlisted h unlisted, fun a => ?_⟩
  rw [confined]
  rfl

/-- A run of stores, whatever I and the PC become, changes only the cells it stores to (R51, R54). -/
theorem onlyBytesIndexPc_storeBytes {a : Nat} {bs : List Byte}
    (confined : t = { s.storeBytes a bs with i := t.i, pc := t.pc }) : OnlyBytesIndexPc a bs.length s t := by
  refine ⟨?_, fun b outside => ?_⟩ <;> rw [confined]
  · rfl
  · exact s.memRead_storeBytes_outside a bs b outside

/-! ### The index and the flag -/

theorem State.setI_toNat (s : State) (n : Nat) : (s.setI n).i.toNat = n % 4096 := by
  rw [State.setI_i, BitVec.toNat_ofNat]
  omega

theorem flagByte_decide (P : Prop) [Decidable P] : flagByte (decide P) = if P then 1 else 0 := by
  simp only [flagByte, decide_eq_true_eq]

/-! ### Decimal digits (R153) -/

theorem bcdDigits_toNat (b : Byte) :
    (bcdDigits b).map BitVec.toNat = [b.toNat / 100, b.toNat / 10 % 10, b.toNat % 10] := by
  have := b.isLt
  simp only [bcdDigits, List.map_cons, List.map_nil, BitVec.toNat_ofNat, List.cons.injEq, and_true]
  omega

/-- Each digit stands in its own cell, as a number. -/
theorem State.memRead_storeBytes_bcdDigits (s : State) (a : Nat) (b : Byte) (j : Nat) (h : j < 3) :
    ((s.storeBytes a (bcdDigits b)).memRead (a + j)).toNat = [b.toNat / 100, b.toNat / 10 % 10, b.toNat % 10][j] := by
  have length : (bcdDigits b).length = 3 := rfl
  calc ((s.storeBytes a (bcdDigits b)).memRead (a + j)).toNat
    _ = (bcdDigits b)[j].toNat := congrArg BitVec.toNat (s.memRead_storeBytes a (bcdDigits b) (by omega) j h)
    _ = ((bcdDigits b).map BitVec.toNat)[j] := (List.getElem_map _).symm
    _ = [b.toNat / 100, b.toNat / 10 % 10, b.toNat % 10][j] := by simp only [bcdDigits_toNat]

/-! ### Block transfers (R154, R155) -/

/-- A block store puts V[k] at I + k. -/
theorem memRead_of_exec_storeRegs (h : exec (.storeRegs x) s = .next t) {k : Reg} (stored : k ≤ x) :
    t.memRead (s.i.toNat + k.val) = s.reg k := by
  have length := s.regsUpTo_length x
  have kth : k.val < (s.regsUpTo x).length := length ▸ Nat.lt_succ_of_le stored
  cases h
  calc (((s.storeBytes s.i.toNat (s.regsUpTo x)).bumpI x).advance 2).memRead (s.i.toNat + k.val)
    _ = (s.storeBytes s.i.toNat (s.regsUpTo x)).memRead (s.i.toNat + k.val) := State.bumpI_memRead _ x _
    _ = (s.regsUpTo x)[k.val] := s.memRead_storeBytes _ _ (by omega) _ kth
    _ = s.reg k := s.regsUpTo_get x _ kth

/-- A block load takes V[k] from I + k. -/
theorem reg_of_exec_loadRegs (h : exec (.loadRegs x) s = .next t) {k : Reg} (loaded : k ≤ x) :
    t.reg k = s.memRead (s.i.toNat + k.val) := by
  cases h
  calc (((s.loadUpTo x).bumpI x).advance 2).reg k
    _ = (s.loadUpTo x).reg k := State.bumpI_reg _ x k
    _ = s.memRead (s.i.toNat + k.val) := (s.reg_loadUpTo x k).trans (if_pos loaded)

/-- A block transfer ends with the quirk increment and the advance, which touch I and the PC alone. -/
theorem State.bumpI_advance_eq (s : State) (x : Reg) (n : Nat) :
    (s.bumpI x).advance n = { s with i := ((s.bumpI x).advance n).i, pc := ((s.bumpI x).advance n).pc } := by
  rw [State.bumpI_eq]
  rfl

theorem State.bumpI_advance_two_pc (s : State) (x : Reg) : ((s.bumpI x).advance 2).pc = s.pc + 2 := by
  rw [State.advance_two_pc, State.bumpI_pc]

end Sys2Proof.Machine

/-- Settles O41: the flag is written after I and is the only register written. -/
theorem addToIndexReportsOverflow : Obligations.AddToIndexReportsOverflow := by
  unfold Obligations.AddToIndexReportsOverflow
  intro x s
  exact ⟨_, rfl, s.setI_toNat _, (State.setReg_advance_reg _ vF _ 2).trans (flagByte_decide _), s.advance_two_pc,
    exec_onlyRegsIndexPc (i := .addI x) rfl rfl⟩

/-- Settles O43: the three digits are one run of stores at I. -/
theorem decimalDigitsAreStoredAtI : Obligations.DecimalDigitsAreStoredAtI := by
  unfold Obligations.DecimalDigitsAreStoredAtI
  intro x s
  have digit := s.memRead_storeBytes_bcdDigits s.i.toNat (s.reg x)
  exact ⟨_, rfl, digit 0 (by decide), digit 1 (by decide), digit 2 (by decide), rfl, s.advance_two_pc,
    onlyBytesIndexPc_storeBytes (bs := bcdDigits (s.reg x)) rfl⟩

/-- Settles O44: the registers up to VX are one run of X + 1 stores at I, and the quirk increment follows it. -/
theorem blockStorePutsRegistersAtI : Obligations.BlockStorePutsRegistersAtI := by
  unfold Obligations.BlockStorePutsRegistersAtI
  intro x s
  obtain ⟨moves, stays⟩ := (s.storeBytes s.i.toNat (s.regsUpTo x)).bumpI_index x
  refine ⟨_, rfl, fun k stored => memRead_of_exec_storeRegs rfl stored, moves, stays, State.bumpI_advance_two_pc _ x, ?_⟩
  rw [← s.regsUpTo_length x]
  exact onlyBytesIndexPc_storeBytes (State.bumpI_advance_eq _ x 2)

/-- Settles O45: the load writes the registers up to VX alone, and the quirk increment follows it. -/
theorem blockLoadTakesRegistersFromI : Obligations.BlockLoadTakesRegistersFromI := by
  unfold Obligations.BlockLoadTakesRegistersFromI
  intro x s
  have index := (s.loadUpTo x).bumpI_index x
  rw [State.loadUpTo_qIncI, State.loadUpTo_i] at index
  obtain ⟨moves, stays⟩ := index
  refine ⟨_, rfl, fun k loaded => reg_of_exec_loadRegs rfl loaded, moves, stays, ?_,
    exec_onlyRegsIndexPc (i := .loadRegs x) rfl ?_⟩
  · rw [State.bumpI_advance_two_pc, State.loadUpTo_pc]
  · rw [State.bumpI_advance_eq, State.loadUpTo]

/-- Settles O46: the load takes V[k] from the cell at I + k, where the store put it. -/
theorem blockStoreThenLoadIsTheIdentity : Obligations.BlockStoreThenLoadIsTheIdentity := by
  unfold Obligations.BlockStoreThenLoadIsTheIdentity
  intro x s t u w store sameMemory sameIndex load k upTo
  calc w.reg k
    _ = u.memRead (u.i.toNat + k.val) := reg_of_exec_loadRegs load upTo
    _ = t.memRead (s.i.toNat + k.val) := by rw [sameMemory, sameIndex]
    _ = s.reg k := memRead_of_exec_storeRegs store upTo

/-- Settles O40: an address field is below 4096, so I holds it as it is. -/
theorem loadIndexSetsI : Obligations.LoadIndexSetsI := by
  unfold Obligations.LoadIndexSetsI
  intro nnn s
  exact ⟨_, rfl, (s.setI_toNat _).trans (Nat.mod_eq_of_lt nnn.isLt), s.advance_two_pc,
    exec_onlyRegsIndexPc (i := .ldI nnn) rfl rfl⟩

/-- Settles O42: 5 times a byte is below 4096, so I holds it as it is. -/
theorem pointAtGlyphIsFiveTimesVX : Obligations.PointAtGlyphIsFiveTimesVX := by
  unfold Obligations.PointAtGlyphIsFiveTimesVX
  intro x s
  have fits : 5 * (s.reg x).toNat < 4096 := by have := (s.reg x).isLt; omega
  exact ⟨_, rfl, (s.setI_toNat _).trans (Nat.mod_eq_of_lt fits), s.advance_two_pc,
    exec_onlyRegsIndexPc (i := .ldF x) rfl rfl⟩

end

section
/-! What a draw does to the pixels its sprite covers and to the flag, said once for one draw and then for two at the
same coordinates, and from it the display and the random number (spec/45_random_display.md R165 to R168). -/

open Sys2Proof Sys2Proof.Machine

namespace Sys2Proof.Machine

variable {s t u : State} {x y : Reg} {n : Nibble}

/-! ### The sprite (R167) -/

theorem State.sprite_eq_wrapped (s : State) (n : Nibble) :
    s.sprite n = (List.range n.toNat).map fun k => s.memRead ((s.i.toNat + k) % 4096) := by
  simp only [State.sprite, State.memRead_mod]

/-- A sprite has no more rows than the screen, so no row of it lands on another. -/
theorem State.sprite_length_le (s : State) (n : Nibble) : (s.sprite n).length ≤ 32 := by
  have := n.isLt
  rw [State.sprite_length]
  omega

/-- The pixel `(px, py)` is one that `DXYN` in the state `s` covers: its sprite is at I, its corner at (VX, VY). -/
abbrev State.Draws (s : State) (x y : Reg) (n : Nibble) (px py : Nat) : Prop :=
  Covers (s.sprite n) (s.reg x).toNat (s.reg y).toNat px py

/-! ### One draw (R168) -/

theorem exec_drw_frame (h : exec (.drw x y n) s = .next t) :
    t = { s with v := t.v, fb := t.fb, redraw := t.redraw, pc := t.pc } := by
  cases h
  rfl

/-- A draw inverts the pixels it covers, keeps the others, and reports in VF whether a covered one was 1. -/
theorem exec_drw_spec (h : exec (.drw x y n) s = .next t) :
    (∀ px py, s.Draws x y n px py → fbRead t.fb px py = !fbRead s.fb px py) ∧
    (∀ px py, ¬s.Draws x y n px py → fbRead t.fb px py = fbRead s.fb px py) ∧
    (t.reg vF = 1 ↔ ∃ px py, s.Draws x y n px py ∧ fbRead s.fb px py = true) := by
  obtain ⟨inverted, kept, collision⟩ :=
    drawRows_spec (s.reg x).toNat (s.sprite n) ⟨s.fb, false⟩ (s.reg y).toNat (s.sprite_length_le n)
  cases h
  refine ⟨inverted, kept, ?_⟩
  rw [State.setFlag_eq, State.setReg_advance_reg, flagByte_eq_one, collision]
  simp only [Bool.false_eq_true, false_or]

/-- A draw whose covered pixels were all 0 clears VF. -/
theorem flag_eq_zero_of_exec_drw (h : exec (.drw x y n) s = .next t)
    (dark : ∀ px py, s.Draws x y n px py → fbRead s.fb px py = false) : t.reg vF = 0 := by
  obtain ⟨-, -, collision⟩ := exec_drw_spec h
  have quiet : t.reg vF ≠ 1 := fun raised => by
    obtain ⟨px, py, covered, lit⟩ := collision.1 raised
    exact Bool.false_ne_true ((dark px py covered).symm.trans lit)
  obtain ⟨b, flag⟩ := exec_flag h rfl
  rw [flag] at quiet ⊢
  exact (flagByte_zero_or_one b).resolve_right quiet

/-! ### Two draws at the same coordinates (R168) -/

section
variable (first : exec (.drw x y n) s = .next t) (sameX : t.reg x = s.reg x) (sameY : t.reg y = s.reg y)
include first sameX sameY

/-- A draw keeps its sprite, so a second one at the same corner covers the same pixels. -/
theorem draws_after_draw (px py : Nat) : t.Draws x y n px py ↔ s.Draws x y n px py := by
  have sameSprite : t.sprite n = s.sprite n := by rw [exec_drw_frame first]; rfl
  rw [State.Draws, sameSprite, sameX, sameY]

/-- The covered pixels are inverted twice and the others never. -/
theorem fb_of_exec_drw_twice (second : exec (.drw x y n) t = .next u) : u.fb = s.fb := by
  obtain ⟨inverted, kept, -⟩ := exec_drw_spec first
  obtain ⟨invertedBack, keptAgain, -⟩ := exec_drw_spec second
  refine Framebuffer.ext_read fun px py => ?_
  have same := draws_after_draw first sameX sameY px py
  by_cases covered : s.Draws x y n px py
  · rw [invertedBack px py (same.2 covered), inverted px py covered, Bool.not_not]
  · rw [keptAgain px py (mt same.1 covered), kept px py covered]

/-- The pixels the second draw turns off are those the first one turned on. -/
theorem draws_lit_iff_turned_on (px py : Nat) :
    (t.Draws x y n px py ∧ fbRead t.fb px py = true) ↔ (fbRead s.fb px py = false ∧ fbRead t.fb px py = true) := by
  obtain ⟨inverted, kept, -⟩ := exec_drw_spec first
  rw [draws_after_draw first sameX sameY]
  by_cases covered : s.Draws x y n px py
  · simp [covered, inverted px py covered]
  · simp [covered, kept px py covered]

end

end Sys2Proof.Machine

/-- Settles O49: the rows of the statement are the sprite that `DXYN` draws. -/
theorem drawInvertsTheCoveredPixels : Obligations.DrawInvertsTheCoveredPixels := by
  unfold Obligations.DrawInvertsTheCoveredPixels
  intro x y n s rows sprite
  obtain rfl : rows = s.sprite n := sprite.trans (s.sprite_eq_wrapped n).symm
  have draw : exec (.drw x y n) s = .next _ := rfl
  obtain ⟨inverted, kept, collision⟩ := exec_drw_spec draw
  exact ⟨_, draw, inverted, kept, collision.2, flag_eq_zero_of_exec_drw draw, rfl, State.advance_two_pc _, rfl,
    fun r other => exec_reg_of_unlisted draw (mt List.mem_singleton.1 other), fun _ => rfl⟩

/-- Settles O50: the first draw leaves the sprite and, by hypothesis, its corner, so both draws cover the same pixels. -/
theorem drawingTwiceRestoresTheScreen : Obligations.DrawingTwiceRestoresTheScreen := by
  unfold Obligations.DrawingTwiceRestoresTheScreen
  intro x y n s t u first sameX sameY second
  obtain ⟨-, -, collision⟩ := exec_drw_spec second
  refine ⟨fb_of_exec_drw_twice first sameX sameY second, collision.trans ?_⟩
  simp only [draws_lit_iff_turned_on first sameX sameY]

/-- Settles O47: whatever byte is drawn, only its bits inside the mask are written. -/
theorem randomByteIsMasked : Obligations.RandomByteIsMasked := by
  unfold Obligations.RandomByteIsMasked
  intro x nn s
  have draw : exec (.rnd x nn) s = .next _ := rfl
  have masked := s.countDraw.setReg_advance_reg x (s.drawnByte &&& nn) 2
  refine ⟨_, draw, masked, ?_, rfl, s.advance_two_pc, rfl,
    fun r other => exec_reg_of_unlisted draw (mt List.mem_singleton.1 other), fun _ => rfl⟩
  rw [masked, BitVec.and_assoc, BitVec.and_not_self]
  exact BitVec.and_zero

/-- Settles O48: the clear puts the blank framebuffer in place of the old one and writes no register. -/
theorem clearScreenZeroesEveryPixel : Obligations.ClearScreenZeroesEveryPixel := by
  unfold Obligations.ClearScreenZeroesEveryPixel
  intro s
  exact ⟨_, rfl, fbRead_blank, rfl, s.advance_two_pc, rfl, fun _ => rfl⟩

end

section
/-! What the keypad and the timer transfers leave, from the shapes of a skip and of a register write
(spec/46_keypad_timers.md R175 to R181), and the end of a step that is still in RUN mode (spec/60_exceptions.md R202). -/

open Sys2Proof Sys2Proof.Machine

namespace Sys2Proof.Machine

/-- A key is the one a byte names when it is the byte's value modulo 16 (R181). -/
theorem eq_keyIndex {k : Reg} {b : Byte} (named : k.val = b.toNat % 16) : k = keyIndex b :=
  Fin.ext (named.trans (keyIndex_val b).symm)

/-- A key's number is below 16, so a register holds it as it is. -/
theorem keyNumber_toNat (k : Reg) : (BitVec.ofNat 8 k.val).toNat = k.val :=
  (BitVec.toNat_ofNat _ _).trans (Nat.mod_eq_of_lt (k.isLt.trans (by decide)))

/-- A step that is in RUN mode at its end clocks the Timer Driver (R91, R98). -/
theorem State.endStep_of_run {s : State} (running : s.mode = .run) : s.endStep = s.timerDriver := by
  simp only [State.endStep, running]

end Sys2Proof.Machine

/-- Settles O28: the two skips test the key that VX names and its negation. -/
theorem skipsOnKey : Obligations.SkipsOnKey := by
  unfold Obligations.SkipsOnKey
  intro x k s named
  obtain rfl : k = keyIndex (s.reg x) := eq_keyIndex named
  constructor
  · exact ⟨_, rfl, s.skipIf_pc_of_iff Iff.rfl, onlyRegsPc_skipIf s _⟩
  · exact ⟨_, rfl, s.skipIf_pc_of_iff_not Bool.not_iff_not, onlyRegsPc_skipIf s _⟩

/-- Settles O51: the key scan ends at the least pressed key, whose number is written into VX. -/
theorem keyWaitTakesTheLeastPressedKey : Obligations.KeyWaitTakesTheLeastPressedKey := by
  unfold Obligations.KeyWaitTakesTheLeastPressedKey
  intro x k s pressed least
  exact ⟨_, exec_ldVxK_of_key s x k pressed least,
    (congrArg BitVec.toNat (s.setReg_advance_reg x _ 2)).trans (keyNumber_toNat k),
    State.advance_two_pc _, onlyRegsPc_setReg s x _ 2⟩

/-- Settles O52: with no key pressed the meaning is the identity, so its step ends in RUN mode. -/
theorem keyWaitWithoutKeyChangesNothing : Obligations.KeyWaitWithoutKeyChangesNothing := by
  unfold Obligations.KeyWaitWithoutKeyChangesNothing
  intro x s unpressed
  refine ⟨exec_ldVxK_no_key s x unpressed, fun running decoded => ?_⟩
  calc step s
    _ = .next s.beginStep.endStep := step_of_exec running decoded (exec_ldVxK_no_key s.beginStep x unpressed)
    _ = .next s.beginStep.timerDriver := congrArg Host.Outcome.next (State.endStep_of_run running)

/-- Settles O53: one register write from DT, and one write of each timer from VX. -/
theorem timersAreReadAndWritten : Obligations.TimersAreReadAndWritten := by
  unfold Obligations.TimersAreReadAndWritten
  intro x s
  refine ⟨?readDelay, ?writeDelay, ?writeSound⟩
  case readDelay => exact ⟨_, rfl, s.setReg_advance_reg x s.dt 2, s.advance_two_pc, onlyRegsPc_setReg s x s.dt 2⟩
  case writeDelay => exact ⟨_, rfl, rfl, s.advance_two_pc, rfl, fun _ => rfl⟩
  case writeSound => exact ⟨_, rfl, rfl, s.advance_two_pc, rfl, fun _ => rfl⟩

end

section
/-! What makes a step fatal, said once, with the one state that a fatal step leaves (spec/60_exceptions.md R190 to R193,
R199), and which of the host's operations can end in RUN mode (R200; spec/40_step_cycle.md R90, R95). -/

open Sys2Proof Sys2Proof.Machine

namespace Sys2Proof
namespace Machine

variable {s t : State} {i : Instr} {code : ErrCode}

/-! ### Fatal steps -/

/-- What makes the next step fatal, and the code that it raises (R190). -/
inductive StepFatal (s : State) : ErrCode → Prop where
  /-- the word fetched is no instruction (R191) -/
  | unknown : decode s.fetchWord = none → StepFatal s .unknownOpcode
  /-- the instruction decoded raises its own condition (R192, R193) -/
  | instr {i : Instr} {code : ErrCode} : decode s.fetchWord = some i → Fatal s i code → StepFatal s code

theorem stepFatal_unknownOpcode_iff : StepFatal s .unknownOpcode ↔ decode s.fetchWord = none := by
  constructor
  · intro cause
    cases cause with
    | unknown undecoded => exact undecoded
    | instr _ raised => cases raised
  · exact .unknown

theorem stepFatal_stackOverflow_iff :
    StepFatal s .stackOverflow ↔ (∃ nnn, decode s.fetchWord = some (.call nnn)) ∧ s.sp.val = 32 := by
  constructor
  · intro cause
    cases cause with | instr decoded raised =>
      cases raised with | overflow full => exact ⟨⟨_, decoded⟩, full⟩
  · rintro ⟨⟨nnn, decoded⟩, full⟩
    exact .instr decoded (.overflow full)

theorem stepFatal_stackUnderflow_iff :
    StepFatal s .stackUnderflow ↔ decode s.fetchWord = some .ret ∧ s.sp.val = 0 := by
  constructor
  · intro cause
    cases cause with | instr decoded raised =>
      cases raised with | underflow empty => exact ⟨decoded, empty⟩
  · rintro ⟨decoded, empty⟩
    exact .instr decoded (.underflow empty)

theorem StepFatal.code_ne_none (cause : StepFatal s code) : code ≠ .none := by
  cases cause with
  | unknown => decide
  | instr _ raised => exact raised.code_ne_none

/-- The start of a step leaves SP, from which an instruction's condition is read. -/
theorem fatal_beginStep_iff : Fatal s.beginStep i code ↔ Fatal s i code := by
  constructor <;> rintro (full | empty)
  exacts [.overflow full, .underflow empty, .overflow full, .underflow empty]

/-- An instruction whose condition holds does nothing but raise it (R192, R193, R199). -/
theorem exec_of_fatal (raised : Fatal s i code) : exec i s = .next (s.raiseFatal code (encode i)) := by
  cases raised with
  | overflow full => exact exec_call_full s _ full
  | underflow empty => exact exec_ret_empty s empty

/-- A fatal step raises its code with the word fetched, whichever its cause, and that is all it does: the tick of
R98 is left out (R199). -/
theorem step_of_stepFatal (running : s.mode = .run) (cause : StepFatal s code) :
    step s = .next (s.raiseFatal code s.fetchWord) := by
  cases cause with
  | unknown undecoded => exact step_of_unknown running undecoded
  | instr decoded raised =>
    rw [step_of_exec running decoded (exec_of_fatal (fatal_beginStep_iff.mpr raised)), encode_of_decode decoded]
    rfl

/-- A step from RUN mode that ends in FAULT mode had a cause, and raised its code with the word fetched. -/
theorem step_fault_cases (running : s.mode = .run) (h : step s = .next t) (stopped : t.mode = .fault) :
    ∃ code, StepFatal s code ∧ t = s.raiseFatal code s.fetchWord := by
  have cause : ∃ code, StepFatal s code := by
    obtain ⟨already, -⟩ | ⟨-, undecoded, -⟩ | ⟨i, m, -, decoded, ran, rfl⟩ := step_cases h
    · cases running.symm.trans already
    · exact ⟨_, .unknown undecoded⟩
    · obtain ⟨code, raised, -⟩ | same := exec_cases ran
      · exact ⟨code, .instr decoded (fatal_beginStep_iff.mp raised)⟩
      · rw [State.endStep_mode, same.mode, State.beginStep_mode, running] at stopped
        cases stopped
  obtain ⟨code, cause⟩ := cause
  rw [step_of_stepFatal running cause] at h
  cases h
  exact ⟨code, cause, rfl⟩

/-- A step from RUN mode ends in FAULT mode with a code exactly when it had a cause of that code. -/
theorem step_fault_iff (running : s.mode = .run) (h : step s = .next t) :
    t.mode = .fault ∧ t.err = code ↔ StepFatal s code := by
  constructor
  · rintro ⟨stopped, rfl⟩
    obtain ⟨code, cause, rfl⟩ := step_fault_cases running h stopped
    exact cause
  · intro cause
    rw [step_of_stepFatal running cause] at h
    cases h
    exact ⟨rfl, rfl⟩

/-! ### The host's operations and the mode -/

/-- A `load` that is not refused is a run of stores from 0x200 (R99). -/
theorem State.load_cases {bytes : List Byte} (h : s.load bytes = .next t) : t = s.storeBytes 0x200 bytes := by
  by_cases fits : bytes.length ≤ 3584
  · rw [State.load_of_fits s fits] at h
    cases h
    rfl
  · rw [State.load_too_long s (Nat.lt_of_not_le fits)] at h
    cases h

/-- An operation that ends in RUN mode is `reset()` or started there. -/
theorem hostOp_run_cases {o : HostOp} (h : hostOp o s = .next t) (running : t.mode = .run) :
    o = .reset ∨ s.mode = .run := by
  cases o with
  | reset => exact .inl rfl
  | step => exact .inr (step_run_of_run h running)
  | load bytes => obtain rfl := State.load_cases h; exact .inr running
  | setQuirks | keys | pixel => cases h; exact .inr running

end Machine
end Sys2Proof

/-- Settles O17: ending in FAULT mode with a code is having a cause of that code, and each code's causes are known. -/
theorem fatalConditionsAreExactlyThree : Obligations.FatalConditionsAreExactlyThree := by
  unfold Obligations.FatalConditionsAreExactlyThree
  intro s t running stepped
  rw [step_fault_iff running stepped, step_fault_iff running stepped, step_fault_iff running stepped]
  refine ⟨stepFatal_unknownOpcode_iff, stepFatal_stackOverflow_iff, stepFatal_stackUnderflow_iff, fun stopped => ?_⟩
  exact ((step_fault_iff running stepped).mp ⟨stopped, rfl⟩).code_ne_none

/-- Settles O18: a fatal step does nothing but raise its code with the word fetched. -/
theorem fatalStepLatchesAndKeepsTheRest : Obligations.FatalStepLatchesAndKeepsTheRest := by
  unfold Obligations.FatalStepLatchesAndKeepsTheRest
  intro s t running stepped stopped
  obtain ⟨code, -, rfl⟩ := step_fault_cases running stepped stopped
  exact ⟨rfl, fun _ => rfl⟩

/-- Settles O20: an operation that ends in RUN mode without being `reset()` would have started there. -/
theorem onlyResetLeavesFaultMode : Obligations.OnlyResetLeavesFaultMode := by
  unfold Obligations.OnlyResetLeavesFaultMode
  intro o s t stopped ran running
  exact (hostOp_run_cases ran running).resolve_right fun started => nomatch stopped.symm.trans started

/-- Settles O16: each of the two does nothing but raise its condition. -/
theorem fullCallAndEmptyReturnMoveNothing : Obligations.FullCallAndEmptyReturnMoveNothing := by
  unfold Obligations.FullCallAndEmptyReturnMoveNothing
  constructor
  · exact fun s nnn full => ⟨_, exec_of_fatal (.overflow full), rfl, rfl, rfl, rfl, rfl⟩
  · exact fun s empty => ⟨_, exec_of_fatal (.underflow empty), rfl, rfl, rfl, rfl, rfl⟩

end
